-- ==== Sys2Proof/Word.lean ====
section
/-! DEFINITION. The plain words of the block's ports: bits and bytes, durations, a pulse/space pair, the five
classifications, and what the host presents to the core in one step. -/

namespace Sys2Proof

/-- One byte of the message buffer (10_state.md R12, R13). -/
abbrev Byte := BitVec 8

/-- One data bit (00_scope.md glossary, Bit(v)). -/
abbrev Bit := BitVec 1

/-- A Timing Pulse Pair: the operand of one input transaction, the space possibly absent (00_scope.md glossary). A
duration is a count of microseconds, a natural number (00_scope.md R6); that it fits the port's `DUR_W` bits is
`Instr.wellFormed`. -/
structure Pair where
  pulse : Nat
  space : Option Nat
  deriving DecidableEq, Repr

/-- The five values of the source's Classification, "an inductive type with five constructors" (30_encoding.md R48). -/
inductive Classification where
  | unknown
  | header
  | bit0
  | bit1
  | gap
  deriving DecidableEq, Repr

/-- The input signals of one step (30_encoding.md R45, R53): `rst`, `i_valid` and the format P word. -/
structure Port where
  rst    : Bool
  iValid : Bool
  word   : Nat
  deriving DecidableEq, Repr

/-- What is presented to the machine in one step: the hardware's port, or an event handed straight to the accumulator
(`acc_step`, 42_message_fsm.md R95 and D25; no second port of the hardware, log entry 4). -/
inductive Input where
  | port  (signals : Port)
  | event (code : Nat) (pair : Pair)
  deriving DecidableEq, Repr

end Sys2Proof
end

