-- ==== Sys2Proof/Config.lean ====
section
/-! DEFINITION. What an implementation of the block fixes at construction: the Timing Profile, GAP_SPACE_MIN, DUR_W and
MSG_DEPTH (00_scope.md R5, 10_state.md R15 to R17). The default values stand in Machine/Profile.lean. -/

namespace Sys2Proof

/-- A Timing Window, both bounds exclusive (40_classifier.md R60). -/
structure Window where
  min : Nat
  max : Nat
  deriving DecidableEq, Repr

/-- The five windows of the Timing Profile (10_state.md R15, 90_conflicts.md C2). -/
structure Profile where
  headerPulse : Window
  headerSpace : Window
  bitPulse    : Window
  zeroSpace   : Window
  oneSpace    : Window
  deriving DecidableEq, Repr

/-- The parameters of 00_scope.md R5. `msgDepth = none` is the source's `unbounded`; `BYTE_W` is 8 and no parameter. -/
structure Config where
  profile     : Profile
  gapSpaceMin : Nat
  durW        : Nat
  msgDepth    : Option Nat
  deriving DecidableEq, Repr

end Sys2Proof
end

