-- ==== Sys2Proof/Machine/Profile.lean ====
section
/-! DEFINITION. The default Timing Profile and parameters, and the conditions on a configuration
(00_scope.md R5, 10_state.md R15 to R18, 30_encoding.md R47). -/

namespace Sys2Proof.Machine

/-- The values of the source's table (10_state.md R15). -/
def defaultProfile : Profile :=
  { headerPulse := { min := 4400, max := 4800 }
    headerSpace := { min := 4400, max := 4800 }
    bitPulse    := { min := 400, max := 750 }
    zeroSpace   := { min := 350, max := 750 }
    oneSpace    := { min := 1500, max := 1820 } }

/-- The default configuration for a depth of the message buffer: R15's profile, `GAP_SPACE_MIN = 10000` (R17),
`DUR_W = 32` (00_scope.md R5). -/
def defaultConfig (depth : Option Nat) : Config :=
  { profile := defaultProfile, gapSpaceMin := 10000, durW := 32, msgDepth := depth }

/-- Two windows share no value, over integers (10_state.md R18 (b)). -/
abbrev windowsApart (a b : Window) : Prop := a.max ≤ b.min + 1 ∨ b.max ≤ a.min + 1

/-- A well-formed profile (10_state.md R18 (a), (b), (c)). The core does not check it. -/
abbrev profileWellFormed (cfg : Config) : Prop :=
  (cfg.profile.headerPulse.min < cfg.profile.headerPulse.max
    ∧ cfg.profile.headerSpace.min < cfg.profile.headerSpace.max
    ∧ cfg.profile.bitPulse.min < cfg.profile.bitPulse.max
    ∧ cfg.profile.zeroSpace.min < cfg.profile.zeroSpace.max
    ∧ cfg.profile.oneSpace.min < cfg.profile.oneSpace.max)
  ∧ windowsApart cfg.profile.headerPulse cfg.profile.bitPulse
  ∧ (windowsApart cfg.profile.zeroSpace cfg.profile.oneSpace
    ∧ cfg.profile.zeroSpace.max ≤ cfg.gapSpaceMin + 1
    ∧ cfg.profile.oneSpace.max ≤ cfg.gapSpaceMin + 1)

/-- A constant of the profile lies in `0 .. 2^DUR_W - 2` (30_encoding.md R47, 93 U17). -/
abbrev constantFits (durW v : Nat) : Prop := v + 2 ≤ 2 ^ durW

/-- Both bounds of a window fit. -/
abbrev windowFits (durW : Nat) (w : Window) : Prop := constantFits durW w.min ∧ constantFits durW w.max

/-- Every constant of the profile and `GAP_SPACE_MIN` is at most `2^DUR_W - 2` (30_encoding.md R47). -/
abbrev constantsFit (cfg : Config) : Prop :=
  windowFits cfg.durW cfg.profile.headerPulse
  ∧ windowFits cfg.durW cfg.profile.headerSpace
  ∧ windowFits cfg.durW cfg.profile.bitPulse
  ∧ windowFits cfg.durW cfg.profile.zeroSpace
  ∧ windowFits cfg.durW cfg.profile.oneSpace
  ∧ constantFits cfg.durW cfg.gapSpaceMin

/-- The constraints a constructed block satisfies: `DUR_W` at least 14, `MSG_DEPTH` positive or unbounded
(00_scope.md R5), and constants that fit the port. -/
abbrev configFits (cfg : Config) : Prop := 14 ≤ cfg.durW ∧ cfg.msgDepth ≠ some 0 ∧ constantsFit cfg

/-- `LEN_W = ceil(log2(MSG_DEPTH + 1))` for a finite, positive `MSG_DEPTH` (00_scope.md R5); none when unbounded. -/
def lenWidth (cfg : Config) : Option Nat := cfg.msgDepth.map (fun d => Nat.log2 d + 1)

end Sys2Proof.Machine
end

