-- ==== Sys2Proof/Machine/State.lean ====
section
/-! DEFINITION. The state of the machine: the five items of 10_state.md R10, the constants the core reads, the output
port, and the records the spec tells a model to keep. -/

namespace Sys2Proof.Machine

/-- The conditions the spec calls a fault. -/
inductive Fault where
  /-- Message overflow: a byte completed on a full finite buffer (41_accumulator.md R84, 60_exceptions.md R109). Raised by
  `byteComplete`, which records it in `State.faultRecord` for the rest of the run and goes on, as R84 and 93 U12 say: no
  step ENDS in a fault. Safe: a claim about a run takes "no fault recorded" as a premise. -/
  | messageOverflow
  deriving DecidableEq, Repr

/-- Why the model gives no next state. -/
inductive Refusal where
  /-- An instruction with no meaning in this model. No arm of `exec` uses it. Safe. -/
  | notModelled (mnemonic : String)
  /-- The state violates the invariants of 10_state.md R23: "unreachable from reset and this spec gives it no meaning"
  (70_reset_and_hazards.md R131; 93 U13: refuse). Raised by `whenCoherent` and `gapEvent`. Safe. -/
  | incoherentState
  /-- The number presented on the port has more than `2*DUR_W + 1` bits (30_encoding.md R45). Raised by `performInput`.
  Safe: no hardware word is refused. -/
  | wordTooWide
  /-- A reserved format E code (30_encoding.md R51, 93 U10). Raised by `performInput` for an event. Safe. -/
  | reservedCode
  /-- An event whose pair has a duration the port cannot carry (30_encoding.md R47, 93 U16). Raised by `performInput` for
  an event. Safe. -/
  | pairOutOfRange
  /-- A configuration outside the constraints of 00_scope.md R5 and 30_encoding.md R47: a constant that does not fit the
  port (93 U17: refuse at construction), or `DUR_W` or `MSG_DEPTH` out of range (the model's choice, log entry 10).
  Raised by `construct`. Safe. -/
  | badConfig
  deriving DecidableEq, Repr

/-- The output events of 30_encoding.md R49. -/
inductive Event where
  | headerSeen
  | bitDecoded (v : Bit)
  | byteAssembled (b : Byte)
  | overflow (b : Byte)
  | unknownPair (pulse : Nat) (space : Option Nat)
  | gapSeen (space : Option Nat)
  | discardedBits (n : BitVec 3)
  | message (bytes : List Byte) (trunc : Bool)
  deriving DecidableEq, Repr

/-- The hardware fields of one output record (30_encoding.md R49). `oSpace` is `o_sv` and `o_space` together: with
`o_sv = 0` the spec gives `o_space` no value, and the model gives it none (log entry 5). `oMsgData` lists
`o_msg_data[i]` for `i < o_msg_len` only (93 U9). -/
structure OutRecord where
  oCls       : BitVec 3
  oPulse     : Nat
  oSpace     : Option Nat
  oByteValid : Bool
  oByte      : Byte
  oOvf       : Bool
  oDisc      : BitVec 3
  oMsgValid  : Bool
  oMsgLen    : Nat
  oMsgData   : List Byte
  oMsgTrunc  : Bool
  deriving DecidableEq, Repr

/-- The cells of the message buffer that hold a value: (index, byte) pairs in rising order of index. An index not listed
holds no value (10_state.md R13). -/
abbrev Memory := List Host.Cell

/-- The state. `bitCount` to `ovf` are the five items of 10_state.md R10; `cfg` the constants (R15 to R17, 00_scope.md
R5), written by nothing; `record` the output port after the last step, `none` for `o_valid = 0` (30_encoding.md R49,
R53); `trace` the output of the run so far (42_message_fsm.md R96); `faultRecord` the fault of the run (60_exceptions.md
R109, 70_reset_and_hazards.md R131); `input` what the host has still to present (log entry 3). -/
structure State where
  cfg         : Config
  bitCount    : BitVec 3
  bitBuffer   : Byte
  mem         : Memory
  msgLen      : Nat
  ovf         : Bool
  record      : Option OutRecord
  trace       : List Event
  faultRecord : Option Fault
  input       : List Input
  deriving DecidableEq, Repr

/-- The launch state of a block built with a configuration (10_state.md R25, 70_reset_and_hazards.md R131). -/
def State.resetWith (cfg : Config) : State :=
  { cfg := cfg
    bitCount := 0#3
    bitBuffer := 0#8
    mem := []
    msgLen := 0
    ovf := false
    record := none
    trace := []
    faultRecord := none
    input := [] }

/-- The machine right after reset: the default parameters, the buffer unbounded as the source's (log entry 1). -/
def State.reset : State := State.resetWith (defaultConfig none)

/-- The answer of a meaning. -/
abbrev Answer := Host.Outcome State Fault Refusal

end Sys2Proof.Machine
end

