-- ==== Sys2Proof/Machine/Ops.lean ====
section
/-! DEFINITION. The named operations over the message buffer and the registers: the two memory primitives
(20_memory.md R31), emitting an event (00_scope.md R7), the invariants (10_state.md R23), reset and construction.
There is no operation that takes an exception: the block has none (60_exceptions.md R105, R114, R115). -/

namespace Sys2Proof.Machine

/-- The byte a cell holds; none for a cell that holds no value (10_state.md R13). -/
def cellAt (m : Memory) (a : Nat) : Option Byte :=
  match m with
  | []      => none
  | c :: cs => if c.1 = a then some c.2 else cellAt cs a

/-- Store one byte in one cell, keeping the cells in rising order. -/
def cellPut (m : Memory) (a : Nat) (b : Byte) : Memory :=
  match m with
  | []      => [(a, b)]
  | c :: cs => if a < c.1 then (a, b) :: c :: cs else if c.1 = a then (a, b) :: cs else c :: cellPut cs a b

/-- The canonical form: indices strictly rising. Every listed cell holds a value, an unlisted one none. -/
abbrev Memory.wf (m : Memory) : Prop := (m.map Prod.fst).Pairwise (· < ·)

/-- `MemRead(addr, n)`: the bytes at `addr .. addr+n-1` in ascending index order; none where a cell holds no value
(00_scope.md R7, 20_memory.md R31). -/
def memRead (m : Memory) (addr n : Nat) : Option (List Byte) :=
  match n with
  | 0     => some []
  | n + 1 => (cellAt m addr).bind (fun b => (memRead m (addr + 1) n).map (fun bs => b :: bs))

/-- `MemWrite(addr, n, v)`: store a list of bytes from `addr` upwards (00_scope.md R7, 20_memory.md R31). -/
def memWrite (m : Memory) (addr : Nat) (bs : List Byte) : Memory :=
  match bs with
  | []      => m
  | b :: bs => memWrite (cellPut m addr b) (addr + 1) bs

/-- The list form of the message buffer (10_state.md R13). -/
def message (s : State) : List Byte := s.mem.map Prod.snd

/-- `emit`: append an event to the output (00_scope.md R7); no event changes the state of the block. -/
def emit (e : Event) (s : State) : State := { s with trace := s.trace ++ [e] }

/-- Write the two accumulator registers together (00_scope.md R7, 41_accumulator.md R80). -/
def setBits (count : BitVec 3) (buffer : Byte) (s : State) : State :=
  { s with bitCount := count, bitBuffer := buffer }

/-- Store a completed byte at `msg_len` and count it (20_memory.md R31). -/
def storeByte (b : Byte) (s : State) : State :=
  { s with mem := memWrite s.mem s.msgLen [b], msgLen := s.msgLen + 1 }

/-- Record a fault of the run; nothing undoes it (60_exceptions.md R109). -/
def recordFault (f : Fault) (s : State) : State := { s with faultRecord := some f }

/-- All five items of 10_state.md R10 to their reset values (R24, R25; 42_message_fsm.md R90). With `msg_len` zero no
cell of the buffer holds a value (R13). -/
def toInitial (s : State) : State :=
  { s with bitCount := 0#3, bitBuffer := 0#8, mem := [], msgLen := 0, ovf := false }

/-- Present an output record, or none, on the output port. -/
def setRecord (r : Option OutRecord) (s : State) : State := { s with record := r }

/-- The inputs the host has still to present. -/
def setInput (ts : List Input) (s : State) : State := { s with input := ts }

/-- The invariants of 10_state.md R23: I2, the cells that hold a value are exactly those below `msg_len` (R13), I4, I5.
I1 is the width of `bitCount`, I3 the shape of `mem`. -/
abbrev Coherent (s : State) : Prop :=
  s.bitBuffer.toNat < 2 ^ s.bitCount.toNat
  ∧ s.mem.map Prod.fst = List.range s.msgLen
  ∧ (∀ d ∈ s.cfg.msgDepth, s.msgLen ≤ d)
  ∧ (s.ovf = true → s.cfg.msgDepth.isSome = true)

/-- Perform an event in a state the spec gives a meaning (70_reset_and_hazards.md R131, 93 U13, log entry
6). -/
def whenCoherent (s : State) (k : State → Answer) : Answer :=
  if Coherent s then k s else .refused .incoherentState

/-- A step with `rst = 1`: the reset state, no record, whatever was presented beside it (70_reset_and_hazards.md R130).
The constants (10_state.md R25), the output so far and the fault of the run (log entry 2) stay. -/
def resetStep (s : State) : State := setRecord none (toInitial s)

/-- A step with no transaction: nothing changes and no record is produced (30_encoding.md R53). -/
def idleStep (s : State) : State := setRecord none s

/-- Construct a block and reset it (70_reset_and_hazards.md R132); a configuration out of range is refused
(93 U17 for the constants; for `DUR_W` and `MSG_DEPTH` log entry 10). -/
def construct (cfg : Config) : Answer :=
  if configFits cfg then .next (State.resetWith cfg) else .refused .badConfig

end Sys2Proof.Machine
end

