-- ==== Sys2Proof/Machine/Flags.lean ====
section
/-! DEFINITION. The one flag, `ovf`, and the room test that decides it (10_state.md R14, 41_accumulator.md R83, R84). -/

namespace Sys2Proof.Machine

/-- "room": `MSG_DEPTH` unbounded or `msg_len < MSG_DEPTH` (41_accumulator.md R83, 42_message_fsm.md R94). -/
def hasRoom (s : State) : Bool :=
  match s.cfg.msgDepth with
  | none   => true
  | some d => decide (s.msgLen < d)

/-- `ovf <- 1` (41_accumulator.md R84). -/
def setOvf (s : State) : State := { s with ovf := true }

/-- The `trunc` field of the next message event (10_state.md R14, 42_message_fsm.md R90). -/
def truncOf (s : State) : Bool := s.ovf

end Sys2Proof.Machine
end

