-- ==== Sys2Proof/Machine/Accumulator.lean ====
section
/-! DEFINITION. The bit-serial-to-byte accumulator: BIT0 and BIT1 (41_accumulator.md). -/

namespace Sys2Proof.Machine

/-- `buf' = ((buf << 1) | v)[7:0]` (41_accumulator.md R80). -/
def shiftIn (buf : Byte) (v : Bit) : Byte := (buf <<< 1) ||| v.setWidth 8

/-- The byte-complete transition: stored when there is room (41_accumulator.md R83), else dropped, with `ovf` set and the
fault of the run recorded (R84, 60_exceptions.md R109). -/
def byteComplete (b : Byte) (s : State) : State :=
  if hasRoom s then emit (.byteAssembled b) (storeByte b s)
  else emit (.overflow b) (recordFault .messageOverflow (setOvf s))

/-- `bit(v)` (41_accumulator.md R80): shift, OR, count, then the test for 8. -/
def bitEvent (v : Bit) (s : State) : State :=
  if s.bitCount.toNat + 1 < 8 then
    setBits (BitVec.ofNat 3 (s.bitCount.toNat + 1)) (shiftIn s.bitBuffer v) (emit (.bitDecoded v) s)
  else
    setBits 0#3 0#8 (byteComplete (shiftIn s.bitBuffer v) (emit (.bitDecoded v) s))

/-- BIT0 (41_accumulator.md R81). -/
def execBit0 (s : State) : Answer := whenCoherent s (fun s => .next (bitEvent 0#1 s))

/-- BIT1 (41_accumulator.md R82). -/
def execBit1 (s : State) : Answer := whenCoherent s (fun s => .next (bitEvent 1#1 s))

end Sys2Proof.Machine
end

