-- ==== Sys2Proof/Machine/MessageFsm.lean ====
section
/-! DEFINITION. The message buffer FSM: GAP, HEADER and UNKNOWN (42_message_fsm.md R90 to R92). -/

namespace Sys2Proof.Machine

/-- UNKNOWN: the raw pair is reported and nothing changes (42_message_fsm.md R92). -/
def execUnknown (pulse : Nat) (space : Option Nat) (s : State) : Answer :=
  whenCoherent s (fun s => .next (emit (.unknownPair pulse space) s))

/-- HEADER: reported, nothing changes (42_message_fsm.md R91). -/
def execHeader (s : State) : Answer := whenCoherent s (fun s => .next (emit .headerSeen s))

/-- The discarded-partial-byte report of `gap()`: only when `bit_count != 0` (42_message_fsm.md R90). -/
def emitDiscarded (s : State) : State :=
  if s.bitCount = 0#3 then s else emit (.discardedBits s.bitCount) s

/-- `gap(s)` (42_message_fsm.md R90), the events in the order of 30_encoding.md R50. -/
def gapEvent (space : Option Nat) (s : State) : Answer :=
  match memRead s.mem 0 s.msgLen with
  | none       => .refused .incoherentState
  | some bytes => .next (toInitial (emit (.message bytes (truncOf s)) (emitDiscarded (emit (.gapSeen space) s))))

/-- GAP (42_message_fsm.md R90). -/
def execGap (space : Option Nat) (s : State) : Answer := whenCoherent s (gapEvent space)

end Sys2Proof.Machine
end

