-- ==== Sys2Proof/Machine/Operands.lean ====
section
/-! DEFINITION. The tests on the operands of a pair: the window test on a present and on an absent space, and the gap
threshold (40_classifier.md R60, R61). -/

namespace Sys2Proof.Machine

/-- `within(W, v)`: strictly between the bounds (40_classifier.md R60). -/
def within (w : Window) (v : Nat) : Bool := decide (w.min < v) && decide (v < w.max)

/-- `within_opt(W, s)`: an absent space is within no window (40_classifier.md R61). -/
def withinOpt (w : Window) (s : Option Nat) : Bool :=
  match s with
  | none   => false
  | some v => within w v

/-- `s > GAP_SPACE_MIN`, strict; false for an absent space (40_classifier.md R61, R62). -/
def aboveGap (cfg : Config) (s : Option Nat) : Bool :=
  match s with
  | none   => false
  | some v => decide (cfg.gapSpaceMin < v)

end Sys2Proof.Machine
end

