-- ==== Sys2Proof/Machine/Classifier.lean ====
section
/-! DEFINITION. The timing-window classifier and the two transactions PAIR.S and PAIR.T (40_classifier.md), with the
accumulator's part of the step, `acc_step` (42_message_fsm.md R95, D25). -/

namespace Sys2Proof.Machine

/-- Line 1 of the decision list (40_classifier.md R62). -/
def isGap (cfg : Config) (p : Nat) (s : Option Nat) : Bool :=
  within cfg.profile.bitPulse p && (s.isNone || aboveGap cfg s)

/-- Line 2. -/
def isHeader (cfg : Config) (p : Nat) (s : Option Nat) : Bool :=
  within cfg.profile.headerPulse p && withinOpt cfg.profile.headerSpace s

/-- Line 3. -/
def isOne (cfg : Config) (p : Nat) (s : Option Nat) : Bool :=
  within cfg.profile.bitPulse p && withinOpt cfg.profile.oneSpace s

/-- Line 4. -/
def isZero (cfg : Config) (p : Nat) (s : Option Nat) : Bool :=
  within cfg.profile.bitPulse p && withinOpt cfg.profile.zeroSpace s

/-- `classify(p, s)`: the first line whose condition holds, in this order (40_classifier.md R62). -/
def classify (cfg : Config) (p : Nat) (s : Option Nat) : Classification :=
  if isGap cfg p s then .gap
  else if isHeader cfg p s then .header
  else if isOne cfg p s then .bit1
  else if isZero cfg p s then .bit0
  else .unknown

/-- `acc_step(S, c, p, s)`: perform event `c` of the pair on the accumulator (42_message_fsm.md R95). -/
def accStep (c : Classification) (t : Pair) (s : State) : Answer :=
  match c with
  | .unknown => execUnknown t.pulse t.space s
  | .header  => execHeader s
  | .bit0    => execBit0 s
  | .bit1    => execBit1 s
  | .gap     => execGap t.space s

/-- PAIR.S p, s (40_classifier.md R63). -/
def execPairS (pulse space : Nat) (s : State) : Answer :=
  accStep (classify s.cfg pulse (some space)) { pulse := pulse, space := some space } s

/-- PAIR.T p, - (40_classifier.md R64). -/
def execPairT (pulse : Nat) (s : State) : Answer :=
  accStep (classify s.cfg pulse none) { pulse := pulse, space := none } s

end Sys2Proof.Machine
end

