-- ==== Sys2Proof/Syntax.lean ====
section
/-! DEFINITION. The seven operations of spec/opcode_table.json, two of format P and five of format E
(30_encoding.md section 3). -/

namespace Sys2Proof

/-- One constructor per row of the operation table. UNKNOWN carries the raw pair and GAP the optional space, their
operands of 42_message_fsm.md R92 and R90 ("used only for the diagnostic"); HEADER, BIT0 and BIT1 have none. -/
inductive Instr where
  /-- `PAIR.S p, s`: a pair with a space (40_classifier.md R63). -/
  | pairS (pulse space : Nat)
  /-- `PAIR.T p, -`: a pair with an absent space (40_classifier.md R64). -/
  | pairT (pulse : Nat)
  /-- `UNKNOWN` (42_message_fsm.md R92). -/
  | unknown (pulse : Nat) (space : Option Nat)
  /-- `HEADER` (42_message_fsm.md R91). -/
  | header
  /-- `BIT0` (41_accumulator.md R81). -/
  | bit0
  /-- `BIT1` (41_accumulator.md R82). -/
  | bit1
  /-- `GAP` (42_message_fsm.md R90). -/
  | gap (space : Option Nat)
  deriving DecidableEq, Repr

end Sys2Proof
end

