-- ==== Sys2Proof/Machine/Dispatch.lean ====
section
/-! DEFINITION. One arm per instruction, each one call of its meaning. -/

namespace Sys2Proof.Machine

/-- The meaning of an instruction in a state. -/
def exec (i : Instr) (s : State) : Host.Outcome State Fault Refusal :=
  match i with
  | .pairS p sp => Sys2Proof.Machine.execPairS p sp s
  | .pairT p => Sys2Proof.Machine.execPairT p s
  | .unknown p sp => Sys2Proof.Machine.execUnknown p sp s
  | .header => Sys2Proof.Machine.execHeader s
  | .bit0 => Sys2Proof.Machine.execBit0 s
  | .bit1 => Sys2Proof.Machine.execBit1 s
  | .gap sp => Sys2Proof.Machine.execGap sp s

end Sys2Proof.Machine
end

