-- ==== Sys2Proof/WellFormed.lean ====
section
/-! DEFINITION. Which instructions the port can carry: every duration is below `2^DUR_W`
(00_scope.md glossary, Duration; 30_encoding.md R45). -/

namespace Sys2Proof

/-- A duration of the port: `DUR_W` bits, unsigned (00_scope.md R5, R6). -/
def durationFits (durW : Nat) (v : Nat) : Bool := decide (v < 2 ^ durW)

/-- An optional duration: an absent one always fits. -/
def spaceFits (durW : Nat) (s : Option Nat) : Bool := s.all (durationFits durW)

/-- Every duration operand of the instruction fits the port. -/
def Instr.wellFormed (durW : Nat) (i : Instr) : Bool :=
  match i with
  | .pairS p s   => durationFits durW p && durationFits durW s
  | .pairT p     => durationFits durW p
  | .unknown p s => durationFits durW p && spaceFits durW s
  | .header      => true
  | .bit0        => true
  | .bit1        => true
  | .gap s       => spaceFits durW s

end Sys2Proof
end

