-- ==== Sys2Proof/Decode.lean ====
section
/-! DEFINITION. Decoder and encoder of formats P and E (30_encoding.md R45, R46, R48, R51, R52). The block's unit of
input is one word, not a byte: the spec gives no byte layout, and none is needed. -/

namespace Sys2Proof

/-- Why an input is no instruction. -/
inductive DecodeError where
  /-- The number has more bits than the port's `2*DUR_W + 1` (30_encoding.md R45): it is no word of format P. -/
  | wordTooWide
  /-- A format E code other than 0 to 4: 5, 6 and 7 are reserved and "a bit-level decoder of format E must refuse them"
  (30_encoding.md R51); a larger number is no 3-bit code. -/
  | reservedCode
  /-- An event's pair has a duration that the port could not have carried (30_encoding.md R47, 93 U16). -/
  | pairOutOfRange
  deriving DecidableEq, Repr

/-- `w[lo+width-1 : lo]` as a natural number (00_scope.md R6, R7). -/
def bitField (w lo width : Nat) : Nat := w / 2 ^ lo % 2 ^ width

/-- The operands of a format P word (30_encoding.md R46); the `space` field is not read when `sv = 0` (R51). -/
def pairOfWord (durW w : Nat) : Pair :=
  { pulse := bitField w 0 durW
    space := if bitField w (2 * durW) 1 = 1 then some (bitField w durW durW) else none }

/-- The transaction of a pair: `PAIR.S` with a space, `PAIR.T` without (40_classifier.md R63, R64). -/
def pairInstr (t : Pair) : Instr :=
  match t.space with
  | some s => .pairS t.pulse s
  | none   => .pairT t.pulse

/-- The decoder of format P: every word of `2*DUR_W + 1` bits is a transaction (30_encoding.md R51, R52). -/
def decodeWord (durW w : Nat) : Except DecodeError Instr :=
  if w < 2 ^ (2 * durW + 1) then .ok (pairInstr (pairOfWord durW w)) else .error .wordTooWide

/-- The classification of a format E code (30_encoding.md R48); a reserved code has none. -/
def classOfCode (code : Nat) : Option Classification :=
  match code with
  | 0 => some .unknown
  | 1 => some .header
  | 2 => some .bit0
  | 3 => some .bit1
  | 4 => some .gap
  | _ => none

/-- The format E code of a classification (30_encoding.md R48). -/
def codeOfClass (c : Classification) : BitVec 3 :=
  match c with
  | .unknown => 0b000#3
  | .header  => 0b001#3
  | .bit0    => 0b010#3
  | .bit1    => 0b011#3
  | .gap     => 0b100#3

/-- The event of a classification with the operands the event takes from the pair (42_message_fsm.md R95). -/
def eventInstr (c : Classification) (t : Pair) : Instr :=
  match c with
  | .unknown => .unknown t.pulse t.space
  | .header  => .header
  | .bit0    => .bit0
  | .bit1    => .bit1
  | .gap     => .gap t.space

/-- The decoder of an event: the format E code with the pair that travels beside it. -/
def decodeEvent (durW code : Nat) (t : Pair) : Except DecodeError Instr :=
  match classOfCode code with
  | none   => .error .reservedCode
  | some c =>
    if durationFits durW t.pulse && spaceFits durW t.space then .ok (eventInstr c t)
    else .error .pairOutOfRange

/-- The word of a pair, its `space` field zero when the space is absent (30_encoding.md R45, R46). -/
def wordOfPair (durW : Nat) (t : Pair) : Nat :=
  match t.space with
  | some s => 2 ^ (2 * durW) + s * 2 ^ durW + t.pulse
  | none   => t.pulse

/-- The instruction an input asks for, whatever `rst` and `i_valid` say. -/
def decodeInput (durW : Nat) (t : Input) : Except DecodeError Instr :=
  match t with
  | .port g       => decodeWord durW g.word
  | .event code p => decodeEvent durW code p

/-- The pair of an input: what `o_pulse`, `o_sv` and `o_space` echo (30_encoding.md R49). -/
def pairOfInput (durW : Nat) (t : Input) : Pair :=
  match t with
  | .port g    => pairOfWord durW g.word
  | .event _ p => p

/-- A word presented on the port in a step without reset (30_encoding.md R53). -/
def wordInput (w : Nat) : Input := .port { rst := false, iValid := true, word := w }

/-- An event handed to the accumulator with the pair it came from. -/
def eventInput (c : Classification) (t : Pair) : Input := .event (codeOfClass c).toNat t

/-- The encoder: the input that asks for an instruction (30_encoding.md R45, R46, R48). -/
def encode (durW : Nat) (i : Instr) : Input :=
  match i with
  | .pairS p s   => wordInput (wordOfPair durW { pulse := p, space := some s })
  | .pairT p     => wordInput (wordOfPair durW { pulse := p, space := none })
  | .unknown p s => eventInput .unknown { pulse := p, space := s }
  | .header      => eventInput .header { pulse := 0, space := none }
  | .bit0        => eventInput .bit0 { pulse := 0, space := none }
  | .bit1        => eventInput .bit1 { pulse := 0, space := none }
  | .gap s       => eventInput .gap { pulse := 0, space := s }

/-- The input of an opcode-table row whose bits are `w`: a row of at most one byte is a format E code, its pair's bits all
zero (pulse 0, space absent); a longer row is a format P word. -/
def tableInput (nbits w : Nat) : Input :=
  if nbits ≤ 8 then .event w { pulse := 0, space := none } else wordInput w

/-- The instruction the decoder reads from an opcode-table word at the table's `DUR_W = 32`. -/
def decodeTableWord (nbits w : Nat) : Option Instr := (decodeInput 32 (tableInput nbits w)).toOption

end Sys2Proof
end

