-- ==== Sys2Proof/Machine/Output.lean ====
section
/-! DEFINITION. The output record of a step, made from the step's pair and events (30_encoding.md R49). -/

namespace Sys2Proof.Machine

/-- A record with every field zero but the echo of the transaction (30_encoding.md R49). -/
def blankRecord (t : Pair) : OutRecord :=
  { oCls := 0#3
    oPulse := t.pulse
    oSpace := t.space
    oByteValid := false
    oByte := 0#8
    oOvf := false
    oDisc := 0#3
    oMsgValid := false
    oMsgLen := 0
    oMsgData := []
    oMsgTrunc := false }

/-- The fields an event sets: the "hardware fields" column of 30_encoding.md R49. -/
def showEvent (r : OutRecord) (e : Event) : OutRecord :=
  match e with
  | .headerSeen          => { r with oCls := codeOfClass .header }
  | .bitDecoded v        => { r with oCls := 2#3 + v.setWidth 3 }
  | .byteAssembled b     => { r with oByteValid := true, oByte := b, oOvf := false }
  | .overflow b          => { r with oByteValid := true, oByte := b, oOvf := true }
  | .unknownPair _ _     => { r with oCls := codeOfClass .unknown }
  | .gapSeen _           => { r with oCls := codeOfClass .gap }
  | .discardedBits n     => { r with oDisc := n }
  | .message bytes trunc =>
    { r with oMsgValid := true, oMsgLen := bytes.length, oMsgData := bytes, oMsgTrunc := trunc }

/-- The record of a step: its events shown on the blank record of its pair. -/
def recordOf (t : Pair) (es : List Event) : OutRecord := es.foldl showEvent (blankRecord t)

/-- `o_sv` (30_encoding.md R49). -/
def outSv (r : OutRecord) : Bool := r.oSpace.isSome

end Sys2Proof.Machine
end

