-- ==== Sys2Proof/Machine/Transaction.lean ====
section
/-! DEFINITION. One input presented to the machine: reset, no transaction, a transaction, or an event
(42_message_fsm.md R95, 30_encoding.md R53, 70_reset_and_hazards.md R130). -/

namespace Sys2Proof.Machine

/-- The refusal of an input that is no instruction. -/
def refusalOf (e : DecodeError) : Refusal :=
  match e with
  | .wordTooWide    => .wordTooWide
  | .reservedCode   => .reservedCode
  | .pairOutOfRange => .pairOutOfRange

/-- After an instruction that started with the trace `before`: present the record of the events it emitted
(30_encoding.md R49, all fields together when the step completes). -/
def present (t : Pair) (before : List Event) (r : Answer) : Answer :=
  match r with
  | .next s    => .next (setRecord (some (recordOf t (s.trace.drop before.length))) s)
  | .fault f   => .fault f
  | .refused x => .refused x

/-- Decode an input, run its instruction and present its record (42_message_fsm.md R95). -/
def runDecoded (t : Input) (s : State) : Answer :=
  match decodeInput s.cfg.durW t with
  | .error e => .refused (refusalOf e)
  | .ok i    => present (pairOfInput s.cfg.durW t) s.trace (exec i s)

/-- One step on one input: reset first (60_exceptions.md R113 (d)), then the transaction, if one is presented. -/
def performInput (t : Input) (s : State) : Answer :=
  match t with
  | .port g    => if g.rst then .next (resetStep s) else if g.iValid then runDecoded t s else .next (idleStep s)
  | .event _ _ => runDecoded t s

end Sys2Proof.Machine
end

