-- ==== Sys2Proof/Machine/Step.lean ====
section
/-! DEFINITION. The step of the machine: the next input of the host's stream is presented and consumed exactly once
(42_message_fsm.md R95, R96); with nothing left the machine idles (70_reset_and_hazards.md R134, 30_encoding.md R53). -/

namespace Sys2Proof.Machine

/-- One step. -/
def step (s : State) : Host.Outcome State Fault Refusal :=
  match s.input with
  | []      => .next (idleStep s)
  | t :: ts => performInput t (setInput ts s)

/-- The state in which the very next step runs the instruction of an opcode-table word: it is put at the head of the
inputs (log entry 3). -/
def State.withFetchWord (s : State) (nbits w : Nat) : State := setInput (tableInput nbits w :: s.input) s

end Sys2Proof.Machine
end

