-- ==== Sys2Proof/Machine/Feeder.lean ====
section
/-! DEFINITION. The Pair Feeder, the host's input side (60_exceptions.md R110, R111, R120 to R125, 30_encoding.md R47,
R54). It is outside the core (00_scope.md R3): `step` does not run it; it makes the inputs that a launch is given. -/

namespace Sys2Proof.Machine

/-- What reaches the feeder: a line, a read timeout, or the end. Widths are integers as read, before clamping. -/
inductive FeederInput where
  | pulseLine (n : Int)
  | spaceLine (n : Int)
  | malformedLine
  | timeout
  | endOfStream
  | readError
  deriving DecidableEq, Repr

/-- Why the feeder model gives no answer. -/
inductive FeederRefusal where
  /-- Input that does not alternate pulse and space, raised by `feederStep` (60_exceptions.md R125, 93 U14). Safe. -/
  | notAlternating
  /-- A line spelled otherwise than 30_encoding.md R54 gives it, raised by `lexLine` (93 U15). Safe. -/
  | otherSpelling
  deriving DecidableEq, Repr

/-- The feeder: the pending pulse (60_exceptions.md R121), and whether its loop still runs (R124). -/
structure Feeder where
  pending : Option Int
  running : Bool
  deriving DecidableEq, Repr

/-- A step of the feeder: its next state and the inputs delivered to the core, or a refusal. -/
inductive FeederAnswer where
  | next (f : Feeder) (delivered : List Input)
  | refused (r : FeederRefusal)
  deriving DecidableEq, Repr

/-- The feeder before its first line. -/
def feederStart : Feeder := { pending := none, running := true }

/-- A width brought into the port's range: above `2^DUR_W - 1` replaced by it, negative by 0 (30_encoding.md R47). -/
def clampWidth (durW : Nat) (v : Int) : Nat := min v.toNat (2 ^ durW - 1)

/-- The transaction of a pair of widths (60_exceptions.md R120, R122). -/
def deliverPair (durW : Nat) (p : Int) (s : Option Int) : Input :=
  wordInput (wordOfPair durW { pulse := clampWidth durW p, space := s.map (clampWidth durW) })

/-- One step of the feeder. After the end of the stream its loop has terminated and nothing is delivered (60_exceptions.md
R124). -/
def feederStep (durW : Nat) (i : FeederInput) (f : Feeder) : FeederAnswer :=
  if f.running then
    match i, f.pending with
    | .pulseLine n,   none   => .next { f with pending := some n } []
    | .pulseLine _,   some _ => .refused .notAlternating
    | .spaceLine n,   some p => .next { f with pending := none } [deliverPair durW p (some n)]
    | .spaceLine _,   none   => .refused .notAlternating
    | .malformedLine, _      => .next f []
    | .timeout,       some p => .next { f with pending := none } [deliverPair durW p none]
    | .timeout,       none   => .next f []
    | .endOfStream,   _      => .next { f with running := false } []
    | .readError,     _      => .next { f with running := false } []
  else .next f []

/-- The feeder over a sequence of its inputs: what it delivers, in order (60_exceptions.md R120). -/
def feed (durW : Nat) (is : List FeederInput) (f : Feeder) : FeederAnswer :=
  match is with
  | []      => .next f []
  | i :: is =>
    match feederStep durW i f with
    | .refused r => .refused r
    | .next f' d =>
      match feed durW is f' with
      | .refused r  => .refused r
      | .next f'' e => .next f'' (d ++ e)

/-- The source's windows on its unbounded integers (30_encoding.md R47: "a negative value is below every min"). -/
def withinInt (w : Window) (v : Int) : Bool := decide ((w.min : Int) < v) && decide (v < (w.max : Int))

/-- An absent space is within no window (40_classifier.md R61). -/
def withinIntOpt (w : Window) (s : Option Int) : Bool :=
  match s with
  | none   => false
  | some v => withinInt w v

/-- The source's gap threshold on its unbounded integers. -/
def aboveGapInt (cfg : Config) (s : Option Int) : Bool :=
  match s with
  | none   => false
  | some v => decide ((cfg.gapSpaceMin : Int) < v)

/-- The decision list of 40_classifier.md R62 on the source's unbounded integers: what a width means before the host
clamps it (30_encoding.md R47). The core never runs it. -/
def classifyInt (cfg : Config) (p : Int) (s : Option Int) : Classification :=
  if withinInt cfg.profile.bitPulse p && (s.isNone || aboveGapInt cfg s) then .gap
  else if withinInt cfg.profile.headerPulse p && withinIntOpt cfg.profile.headerSpace s then .header
  else if withinInt cfg.profile.bitPulse p && withinIntOpt cfg.profile.oneSpace s then .bit1
  else if withinInt cfg.profile.bitPulse p && withinIntOpt cfg.profile.zeroSpace s then .bit0
  else .unknown

/-- A lower-case letter. -/
def isLowerLetter (c : Char) : Bool := decide (97 ≤ c.toNat) && decide (c.toNat ≤ 122)

/-- A decimal digit. -/
def isDecimal (c : Char) : Bool := decide (48 ≤ c.toNat) && decide (c.toNat ≤ 57)

/-- The value of a list of decimal digits. -/
def decimalValue (cs : List Char) : Nat := cs.foldl (fun n c => 10 * n + (c.toNat - 48)) 0

/-- Everything after the first blank; none where there is no blank. -/
def afterBlank (cs : List Char) : Option (List Char) :=
  match cs with
  | []      => none
  | c :: cs => if c = ' ' then some cs else afterBlank cs

/-- The width field of a line: an unsigned decimal, or lower-case letters (an unparseable integer); any other spelling is
refused (30_encoding.md R54, log entry 7). -/
def lexWidth (line : Int → FeederInput) (field : Option (List Char)) : Except FeederRefusal FeederInput :=
  match field with
  | none    => .error .otherSpelling
  | some [] => .error .otherSpelling
  | some ds =>
    if ds.all isDecimal then .ok (line (decimalValue ds))
    else if ds.all isLowerLetter then .ok .malformedLine
    else .error .otherSpelling

/-- One line of the line protocol (30_encoding.md R54): a lower-case leading token other than the two is unrecognized. -/
def lexLine (cs : List Char) : Except FeederRefusal FeederInput :=
  if cs.takeWhile (fun c => c != ' ') = ['p', 'u', 'l', 's', 'e'] then lexWidth .pulseLine (afterBlank cs)
  else if cs.takeWhile (fun c => c != ' ') = ['s', 'p', 'a', 'c', 'e'] then lexWidth .spaceLine (afterBlank cs)
  else if cs.takeWhile (fun c => c != ' ') ≠ [] ∧ (cs.takeWhile (fun c => c != ' ')).all isLowerLetter then
    .ok .malformedLine
  else .error .otherSpelling

end Sys2Proof.Machine
end

