-- ==== Sys2Proof/Machine/Packing.lean ====
section
/-! DEFINITION. What a sequence of data bits means, most significant bit first, without reference to the machine
(20_memory.md R32, R33; 41_accumulator.md R87). -/

namespace Sys2Proof.Machine

/-- The value of a list of bits, the first the most significant (10_state.md R12). -/
def bitsValue (vs : List Bit) : Nat := vs.foldl (fun n v => 2 * n + v.toNat) 0

/-- The whole bytes of a list of bits: byte `j` is made of the bits numbered `8j+1 .. 8j+8` (41_accumulator.md R87). -/
def wholeBytes (vs : List Bit) : List Byte :=
  (List.range (vs.length / 8)).map (fun j => BitVec.ofNat 8 (bitsValue ((vs.drop (8 * j)).take 8)))

/-- The bits after the last whole byte. -/
def danglingBits (vs : List Bit) : List Bit := vs.drop (8 * (vs.length / 8))

/-- The bits 7 down to 0 of a byte, in that order (30_encoding.md R56, `BYTE`). -/
def byteBits (b : Byte) : List Bit := [7, 6, 5, 4, 3, 2, 1, 0].map (fun i => b.extractLsb' i 1)

end Sys2Proof.Machine
end

