-- ==== Sys2Proof/Machine/Pseudo.lean ====
section
/-! DEFINITION. The pseudo-operations of 30_encoding.md R56, valid with the default profile only. -/

namespace Sys2Proof.Machine

/-- `ONE` = `PAIR 560, 1690`. -/
def pseudoOne : Pair := { pulse := 560, space := some 1690 }

/-- `ZERO` = `PAIR 560, 560`. -/
def pseudoZero : Pair := { pulse := 560, space := some 560 }

/-- `HDR` = `PAIR 4500, 4500`. -/
def pseudoHdr : Pair := { pulse := 4500, space := some 4500 }

/-- `END` = `PAIR 560, -`. -/
def pseudoEnd : Pair := { pulse := 560, space := none }

/-- `ENDL` = `PAIR 560, 45000`. -/
def pseudoEndl : Pair := { pulse := 560, space := some 45000 }

/-- `NOISE` = `PAIR 1000, 1000`. -/
def pseudoNoise : Pair := { pulse := 1000, space := some 1000 }

/-- `BYTE 0xNN`: eight of `ONE` / `ZERO` for bits 7 down to 0. -/
def pseudoByte (b : Byte) : List Pair := (byteBits b).map (fun v => if v = 1#1 then pseudoOne else pseudoZero)

end Sys2Proof.Machine
end

