-- ==== Sys2Proof/Machine/Render.lean ====
section
/-! DEFINITION. The output consumer's rendering of a message (42_message_fsm.md R98, 60_exceptions.md R126). It is not part
of the core. -/

namespace Sys2Proof.Machine

/-- One lower-case hexadecimal digit of a number below 16. -/
def hexDigit (n : Nat) : Char := Char.ofNat (if n < 10 then 48 + n else 87 + n)

/-- A byte as two digits, the more significant first. -/
def renderByte (b : Byte) : List Char := [hexDigit (b.toNat / 16), hexDigit (b.toNat % 16)]

/-- A message as two digits a byte with no separator (42_message_fsm.md R98). -/
def renderMessage (bytes : List Byte) : List Char := bytes.flatMap renderByte

end Sys2Proof.Machine
end

