-- ==== Sys2Proof/Machine/Table.lean ====
section
/-! DEFINITION. The transition table of 42_message_fsm.md R94, row by row from the table itself, for statements that hold
the meanings against it. The machine does not run it. -/

namespace Sys2Proof.Machine

/-- "room": `MSG_DEPTH` unbounded or `len(msg) < MSG_DEPTH` (42_message_fsm.md R94). -/
abbrev TableRoom (s : State) : Prop := ∀ d ∈ s.cfg.msgDepth, (message s).length < d

/-- `2*buf + v` as a byte. -/
def tableByte (v : Bit) (s : State) : Byte := BitVec.ofNat 8 (2 * s.bitBuffer.toNat + v.toNat)

/-- The three BIT rows. The last one records the fault of the run (60_exceptions.md R109). -/
def tableBit (v : Bit) (s : State) : State :=
  if s.bitCount.toNat ≤ 6 then
    { s with bitCount := s.bitCount + 1, bitBuffer := tableByte v s, trace := s.trace ++ [.bitDecoded v] }
  else if TableRoom s then
    { s with bitCount := 0, bitBuffer := 0, mem := s.mem ++ [(s.msgLen, tableByte v s)], msgLen := s.msgLen + 1,
             trace := s.trace ++ [.bitDecoded v, .byteAssembled (tableByte v s)] }
  else
    { s with bitCount := 0, bitBuffer := 0, ovf := true, faultRecord := some .messageOverflow,
             trace := s.trace ++ [.bitDecoded v, .overflow (tableByte v s)] }

/-- The two GAP rows. -/
def tableGap (space : Option Nat) (s : State) : State :=
  { s with bitCount := 0, bitBuffer := 0, mem := [], msgLen := 0, ovf := false,
           trace := s.trace ++ (if s.bitCount = 0 then [.gapSeen space, .message (message s) s.ovf]
             else [.gapSeen space, .discardedBits s.bitCount, .message (message s) s.ovf]) }

/-- The row of an event. -/
def tableRow (c : Classification) (t : Pair) (s : State) : State :=
  match c with
  | .bit0    => tableBit 0 s
  | .bit1    => tableBit 1 s
  | .gap     => tableGap t.space s
  | .header  => { s with trace := s.trace ++ [.headerSeen] }
  | .unknown => { s with trace := s.trace ++ [.unknownPair t.pulse t.space] }

/-- The reset row, with no output record (70_reset_and_hazards.md R130). -/
def tableReset (s : State) : State :=
  { s with bitCount := 0, bitBuffer := 0, mem := [], msgLen := 0, ovf := false, record := none }

/-- The five items of 10_state.md R10. -/
abbrev sameItems (s t : State) : Prop :=
  t.bitCount = s.bitCount ∧ t.bitBuffer = s.bitBuffer ∧ t.mem = s.mem ∧ t.msgLen = s.msgLen ∧ t.ovf = s.ovf

end Sys2Proof.Machine
end

