-- ==== Sys2Proof/Machine/Run.lean ====
section
/-! DEFINITION. The run of a finite sequence of inputs and what is observed of it (42_message_fsm.md R96,
70_reset_and_hazards.md R131, R134). -/

namespace Sys2Proof.Machine

/-- The launch of a run: the reset state with the inputs the host will present (70_reset_and_hazards.md R131). -/
def launch (cfg : Config) (ts : List Input) : State := setInput ts (State.resetWith cfg)

/-- The left fold of one input's step over a sequence of inputs (42_message_fsm.md R96); a refusal ends it. -/
def runInputs (ts : List Input) (s : State) : Answer :=
  match ts with
  | []      => .next s
  | t :: ts =>
    match performInput t s with
    | .next s'   => runInputs ts s'
    | .fault f   => .fault f
    | .refused r => .refused r

/-- The contractual observation: the `Message` events, bytes and truncation mark (42_message_fsm.md R96). -/
def messagesOf (es : List Event) : List (List Byte × Bool) :=
  es.filterMap (fun e => match e with | .message bytes trunc => some (bytes, trunc) | _ => none)

/-- The event of a bit value: BIT0 or BIT1 (30_encoding.md R48: `cls[0]` is the bit value). -/
def bitClass (v : Bit) : Classification := if v = 1#1 then .bit1 else .bit0

/-- A sequence of events, each with the pair it came from, given to the accumulator (42_message_fsm.md R95, D25). -/
def runEvents (es : List (Classification × Pair)) (s : State) : Answer :=
  match es with
  | []      => .next s
  | e :: es =>
    match accStep e.1 e.2 s with
    | .next s'   => runEvents es s'
    | .fault f   => .fault f
    | .refused r => .refused r

/-- A sequence of Bit events (41_accumulator.md R87). -/
def bitEvents (vs : List Bit) : List (Classification × Pair) :=
  vs.map (fun v => (bitClass v, { pulse := 0, space := none }))

end Sys2Proof.Machine
end

