-- ==== Sys2Proof/Safety.lean ====
section
/-! DEFINITION. What counts as a safe run, in the terms claims use: no overflow (60_exceptions.md R109: "every claim about
a run takes "no `Overflow` event in the run" as a premise"), and only inputs the hardware's port has. -/

namespace Sys2Proof.Machine

/-- No `Overflow` event among the events (60_exceptions.md R109). -/
def noOverflow (es : List Event) : Bool :=
  es.all (fun e => match e with | .overflow _ => false | _ => true)

/-- A word presented on the port, of the port's width, in a step without reset (30_encoding.md R45, R53). -/
def presentsWord (durW : Nat) (t : Input) : Bool :=
  match t with
  | .port g    => !g.rst && g.iValid && decide (g.word < 2 ^ (2 * durW + 1))
  | .event _ _ => false

/-- The classification an input asks for; none for a reset, an empty step, or an input that is no instruction. -/
def inputClass (cfg : Config) (t : Input) : Option Classification :=
  match t with
  | .port g =>
    if g.rst || !g.iValid || decide (2 ^ (2 * cfg.durW + 1) ≤ g.word) then none
    else some (classify cfg (pairOfWord cfg.durW g.word).pulse (pairOfWord cfg.durW g.word).space)
  | .event code _ => classOfCode code

/-- No fault recorded (60_exceptions.md R109, 70_reset_and_hazards.md R131). -/
abbrev FaultFree (s : State) : Prop := s.faultRecord = none

/-- The fault record tells the truth about the output so far: it is empty exactly when no `Overflow` event was emitted. -/
abbrev FaultRecordTrue (s : State) : Prop := s.faultRecord = none ↔ noOverflow s.trace = true

/-- The events one of which every step emits, as its first (30_encoding.md R50). -/
def isLeadEvent (e : Event) : Bool :=
  match e with
  | .headerSeen        => true
  | .bitDecoded _      => true
  | .unknownPair _ _   => true
  | .gapSeen _         => true
  | .byteAssembled _   => false
  | .overflow _        => false
  | .discardedBits _   => false
  | .message _ _       => false

/-- A state's output and output port replaced: what no rule reads back (40_classifier.md R66). -/
def withOutput (es : List Event) (r : Option OutRecord) (s : State) : State := { s with trace := es, record := r }

/-- A message event's truncation mark hidden. -/
def hideTrunc (e : Event) : Event :=
  match e with
  | .message bytes _ => .message bytes false
  | e                => e

/-- A state with `ovf` and every truncation mark hidden: what of a state may not depend on `ovf` (10_state.md R14). -/
def hideOvf (s : State) : State := { s with ovf := false, trace := s.trace.map hideTrunc }

end Sys2Proof.Machine
end

