-- ==== Sys2Proof/Certificates/Slice0/Obligations.lean ====
section
/-! DEFINITION. The statements for the provers. Each docstring names the rule of spec/ it formalises. -/

open Sys2Proof Sys2Proof.Machine

/-! ### Encoding -/

/-- 30_encoding.md R45, R46, R48: every well-formed instruction is read back from its encoding, whatever `DUR_W`. -/
def Obligations.DecodeOfEncodeIsIdentity : Prop :=
  ∀ (durW : Nat) (i : Instr), i.wellFormed durW = true → decodeInput durW (encode durW i) = .ok i

/-- 30_encoding.md R46: the operands of a word, unscaled and unshifted, and encoding as the inverse with a zero `space`
field for an absent space. -/
def Obligations.WordOperandsAssemble : Prop :=
  (∀ durW w : Nat, w < 2 ^ (2 * durW + 1) →
    (pairOfWord durW w).pulse = w % 2 ^ durW
    ∧ (w / 2 ^ (2 * durW) = 1 → (pairOfWord durW w).space = some (w / 2 ^ durW % 2 ^ durW))
    ∧ (w / 2 ^ (2 * durW) ≠ 1 → (pairOfWord durW w).space = none))
  ∧ (∀ (durW : Nat) (t : Pair), durationFits durW t.pulse = true → spaceFits durW t.space = true →
    wordOfPair durW t < 2 ^ (2 * durW + 1) ∧ pairOfWord durW (wordOfPair durW t) = t
    ∧ (t.space = none → wordOfPair durW t / 2 ^ durW = 0))

/-- 30_encoding.md R52: the decoder of format P is defined on every word and injective up to the ignored field, and there
is one length of word: a wider number is none. -/
def Obligations.WordDecoderInjective : Prop :=
  (∀ durW w : Nat, w < 2 ^ (2 * durW + 1) ↔ ∃ i, decodeWord durW w = .ok i)
  ∧ (∀ durW w1 w2 : Nat, w1 < 2 ^ (2 * durW + 1) → w2 < 2 ^ (2 * durW + 1) →
    (decodeWord durW w1 = decodeWord durW w2 ↔
      w1 = w2 ∨ (w1 / 2 ^ (2 * durW) = 0 ∧ w2 / 2 ^ (2 * durW) = 0 ∧ w1 % 2 ^ durW = w2 % 2 ^ durW)))

/-- 30_encoding.md R51: the `space` field of a word with `sv = 0` is ignored, the reserved format E codes are refused by
the decoder and by the step, and the classifier never produces one. -/
def Obligations.ReservedAndIgnoredEncodings : Prop :=
  (∀ durW p x : Nat, p < 2 ^ durW → x < 2 ^ durW → decodeWord durW (x * 2 ^ durW + p) = .ok (.pairT p))
  ∧ (∀ (durW code : Nat) (t : Pair), code = 5 ∨ code = 6 ∨ code = 7 → decodeEvent durW code t = .error .reservedCode)
  ∧ (∀ (s : State) (code : Nat) (t : Pair) (ts : List Input), code = 5 ∨ code = 6 ∨ code = 7 →
    s.input = .event code t :: ts → step s = .refused .reservedCode)
  ∧ (∀ (cfg : Config) (p : Nat) (s : Option Nat), (codeOfClass (classify cfg p s)).toNat ≤ 4)

/-- 30_encoding.md R48: the five codes, each way. -/
def Obligations.ClassificationCodes : Prop :=
  (∀ (code : Nat) (c : Classification), classOfCode code = some c ↔ code = (codeOfClass c).toNat)
  ∧ codeOfClass .unknown = 0#3 ∧ codeOfClass .header = 1#3 ∧ codeOfClass .bit0 = 2#3 ∧ codeOfClass .bit1 = 3#3
  ∧ codeOfClass .gap = 4#3

/-- 30_encoding.md R45, R48, 40_classifier.md R63, R64: words written out from the spec's encodings. -/
def Obligations.SpecWordsDecode : Prop :=
  decodeTableWord 72 0x10000069A00000230 = some (.pairS 560 1690)
  ∧ decodeTableWord 72 0x1FFFFFFFF00000230 = some (.pairS 560 4294967295)
  ∧ decodeTableWord 72 0x00000000000000230 = some (.pairT 560)
  ∧ decodeTableWord 72 0x0FFFFFFFF00000230 = some (.pairT 560)
  ∧ decodeTableWord 8 0b000 = some (.unknown 0 none)
  ∧ decodeTableWord 8 0b001 = some .header
  ∧ decodeTableWord 8 0b010 = some .bit0
  ∧ decodeTableWord 8 0b011 = some .bit1
  ∧ decodeTableWord 8 0b100 = some (.gap none)

/-! ### The classifier -/

/-- 40_classifier.md R60, R61: both bounds of a window are exclusive; an absent space is in no window and above no
threshold. -/
def Obligations.WindowBoundsExclusive : Prop :=
  (∀ (w : Window) (v : Nat), within w v = true ↔ w.min < v ∧ v < w.max)
  ∧ (∀ w : Window, within w w.min = false ∧ within w w.max = false)
  ∧ (∀ w : Window, withinOpt w none = false ∧ ∀ v, withinOpt w (some v) = within w v)
  ∧ (∀ cfg : Config, aboveGap cfg none = false ∧ ∀ v, aboveGap cfg (some v) = true ↔ cfg.gapSpaceMin < v)

/-- 40_classifier.md R62: the first line of the decision list whose condition holds decides; a space of exactly the
default threshold is not a Gap. -/
def Obligations.ClassifyFirstMatchWins : Prop :=
  (∀ depth : Option Nat, (defaultConfig depth).gapSpaceMin = 10000
    ∧ ∀ p, classify (defaultConfig depth) p (some 10000) ≠ .gap)
  ∧ ∀ (cfg : Config) (p : Nat) (s : Option Nat) (line1 line2 line3 line4 : Prop),
    (line1 ↔ (cfg.profile.bitPulse.min < p ∧ p < cfg.profile.bitPulse.max)
      ∧ (s = none ∨ ∃ v, s = some v ∧ cfg.gapSpaceMin < v)) →
    (line2 ↔ (cfg.profile.headerPulse.min < p ∧ p < cfg.profile.headerPulse.max)
      ∧ ∃ v, s = some v ∧ cfg.profile.headerSpace.min < v ∧ v < cfg.profile.headerSpace.max) →
    (line3 ↔ (cfg.profile.bitPulse.min < p ∧ p < cfg.profile.bitPulse.max)
      ∧ ∃ v, s = some v ∧ cfg.profile.oneSpace.min < v ∧ v < cfg.profile.oneSpace.max) →
    (line4 ↔ (cfg.profile.bitPulse.min < p ∧ p < cfg.profile.bitPulse.max)
      ∧ ∃ v, s = some v ∧ cfg.profile.zeroSpace.min < v ∧ v < cfg.profile.zeroSpace.max) →
    (classify cfg p s = .gap ↔ line1)
    ∧ (classify cfg p s = .header ↔ ¬ line1 ∧ line2)
    ∧ (classify cfg p s = .bit1 ↔ ¬ line1 ∧ ¬ line2 ∧ line3)
    ∧ (classify cfg p s = .bit0 ↔ ¬ line1 ∧ ¬ line2 ∧ ¬ line3 ∧ line4)
    ∧ (classify cfg p s = .unknown ↔ ¬ line1 ∧ ¬ line2 ∧ ¬ line3 ∧ ¬ line4)

/-- 40_classifier.md R67: with a well-formed profile at most one of lines 1 to 4 holds, so the order is immaterial; with
another profile two may hold, and the order decides. -/
def Obligations.WellFormedProfileLinesExclusive : Prop :=
  (∀ (cfg : Config) (p : Nat) (s : Option Nat), profileWellFormed cfg →
    ((isGap cfg p s).toNat + (isHeader cfg p s).toNat + (isOne cfg p s).toNat + (isZero cfg p s).toNat ≤ 1)
    ∧ (classify cfg p s = .gap ↔ isGap cfg p s = true)
    ∧ (classify cfg p s = .header ↔ isHeader cfg p s = true)
    ∧ (classify cfg p s = .bit1 ↔ isOne cfg p s = true)
    ∧ (classify cfg p s = .bit0 ↔ isZero cfg p s = true))
  ∧ (∃ (cfg : Config) (p : Nat) (s : Option Nat),
    ¬ profileWellFormed cfg ∧ isHeader cfg p s = true ∧ isOne cfg p s = true ∧ classify cfg p s = .header)

/-- 40_classifier.md R68: the complete partition of pairs under the default profile. -/
def Obligations.DefaultProfilePartition : Prop :=
  ∀ (depth : Option Nat) (p v : Nat),
    (classify (defaultConfig depth) p none = if 401 ≤ p ∧ p ≤ 749 then .gap else .unknown)
    ∧ (classify (defaultConfig depth) p (some v) =
      if 401 ≤ p ∧ p ≤ 749 then
        if v ≤ 350 then .unknown
        else if v ≤ 749 then .bit0
        else if v ≤ 1500 then .unknown
        else if v ≤ 1819 then .bit1
        else if v ≤ 10000 then .unknown
        else .gap
      else if 4401 ≤ p ∧ p ≤ 4799 then
        if 4401 ≤ v ∧ v ≤ 4799 then .header else .unknown
      else .unknown)

/-- 30_encoding.md R47: how a width is clamped, and that clamping never changes a classification, provided the constants
fit; 14 bits are enough for the default profile. -/
def Obligations.ClampingKeepsClassification : Prop :=
  (∀ (durW : Nat) (v : Int),
    ((2 ^ durW - 1 : Int) < v → (clampWidth durW v : Int) = 2 ^ durW - 1)
    ∧ (v < 0 → clampWidth durW v = 0)
    ∧ (0 ≤ v → v ≤ 2 ^ durW - 1 → (clampWidth durW v : Int) = v))
  ∧ (∀ (cfg : Config) (p : Int) (s : Option Int), constantsFit cfg →
    classify cfg (clampWidth cfg.durW p) (s.map (clampWidth cfg.durW)) = classifyInt cfg p s)
  ∧ (∀ depth : Option Nat, depth ≠ some 0 → configFits { defaultConfig depth with durW := 14 })

/-- 30_encoding.md R56: the pseudo-operations classify as the table says under the default profile, and `BYTE` is the
eight Bit events of its byte, bits 7 down to 0. -/
def Obligations.PseudoOperationsClassify : Prop :=
  ∀ depth : Option Nat,
    classify (defaultConfig depth) pseudoOne.pulse pseudoOne.space = .bit1
    ∧ classify (defaultConfig depth) pseudoZero.pulse pseudoZero.space = .bit0
    ∧ classify (defaultConfig depth) pseudoHdr.pulse pseudoHdr.space = .header
    ∧ classify (defaultConfig depth) pseudoEnd.pulse pseudoEnd.space = .gap
    ∧ classify (defaultConfig depth) pseudoEndl.pulse pseudoEndl.space = .gap
    ∧ classify (defaultConfig depth) pseudoNoise.pulse pseudoNoise.space = .unknown
    ∧ ∀ b : Byte, (pseudoByte b).map (fun t => classify (defaultConfig depth) t.pulse t.space)
        = (byteBits b).map bitClass
      ∧ (byteBits b).length = 8 ∧ bitsValue (byteBits b) = b.toNat

/-! ### The events and the transactions -/

/-- 41_accumulator.md R80, R81, R82 with room left in the byte: shift left, OR in the bit, count. -/
def Obligations.BitShiftsIntoBuffer : Prop :=
  ∀ s : State, Coherent s → s.bitCount.toNat ≤ 6 →
    (exec .bit0 s = .next { s with bitCount := s.bitCount + 1, bitBuffer := BitVec.ofNat 8 (2 * s.bitBuffer.toNat),
                                   trace := s.trace ++ [.bitDecoded 0] })
    ∧ (exec .bit1 s = .next { s with bitCount := s.bitCount + 1, bitBuffer := BitVec.ofNat 8 (2 * s.bitBuffer.toNat + 1),
                                     trace := s.trace ++ [.bitDecoded 1] })

/-- 41_accumulator.md R83: the eighth bit, with room in the buffer: the byte is appended, counted and reported, and both
accumulator registers are cleared in the same step. -/
def Obligations.EighthBitStoresByte : Prop :=
  ∀ s : State, Coherent s → s.bitCount.toNat = 7 → (∀ d ∈ s.cfg.msgDepth, s.msgLen < d) →
    ∀ b0 b1 : Byte, b0 = BitVec.ofNat 8 (2 * s.bitBuffer.toNat) → b1 = BitVec.ofNat 8 (2 * s.bitBuffer.toNat + 1) →
    (∃ t, exec .bit0 s = .next t ∧ message t = message s ++ [b0]
      ∧ t = { s with bitCount := 0, bitBuffer := 0, mem := s.mem ++ [(s.msgLen, b0)], msgLen := s.msgLen + 1,
                     trace := s.trace ++ [.bitDecoded 0, .byteAssembled b0] })
    ∧ (∃ t, exec .bit1 s = .next t ∧ message t = message s ++ [b1]
      ∧ t = { s with bitCount := 0, bitBuffer := 0, mem := s.mem ++ [(s.msgLen, b1)], msgLen := s.msgLen + 1,
                     trace := s.trace ++ [.bitDecoded 1, .byteAssembled b1] })

/-- 41_accumulator.md R84: the eighth bit on a full buffer: the byte is dropped and reported, `ovf` is set, the accumulator
registers are cleared, and the buffer is still full; the model records the fault (60_exceptions.md R109). -/
def Obligations.EighthBitOnFullBufferDropsByte : Prop :=
  ∀ (s : State) (d : Nat), Coherent s → s.bitCount.toNat = 7 → s.cfg.msgDepth = some d → s.msgLen = d →
    (∃ t, exec .bit0 s = .next t ∧ t.msgLen = d
      ∧ t = { s with bitCount := 0, bitBuffer := 0, ovf := true, faultRecord := some .messageOverflow,
                     trace := s.trace ++ [.bitDecoded 0, .overflow (BitVec.ofNat 8 (2 * s.bitBuffer.toNat))] })
    ∧ (∃ t, exec .bit1 s = .next t ∧ t.msgLen = d
      ∧ t = { s with bitCount := 0, bitBuffer := 0, ovf := true, faultRecord := some .messageOverflow,
                     trace := s.trace ++ [.bitDecoded 1, .overflow (BitVec.ofNat 8 (2 * s.bitBuffer.toNat + 1))] })

/-- 42_message_fsm.md R90: GAP reports the discarded bits, if any, emits the message with `trunc = ovf`, and returns all
five items to their reset values. -/
def Obligations.GapEmitsMessageAndClears : Prop :=
  ∀ (s : State) (sp : Option Nat), Coherent s →
    exec (.gap sp) s = .next
      { s with bitCount := 0, bitBuffer := 0, mem := [], msgLen := 0, ovf := false,
               trace := s.trace ++ [.gapSeen sp]
                 ++ (if s.bitCount = 0 then [] else [.discardedBits s.bitCount])
                 ++ [.message (message s) s.ovf] }

/-- 42_message_fsm.md R91: HEADER is reported and writes no state. -/
def Obligations.HeaderOnlyReports : Prop :=
  ∀ s : State, Coherent s → exec .header s = .next { s with trace := s.trace ++ [.headerSeen] }

/-- 42_message_fsm.md R92: UNKNOWN reports the raw pair and writes no state. -/
def Obligations.UnknownOnlyReports : Prop :=
  ∀ (s : State) (p : Nat) (sp : Option Nat), Coherent s →
    exec (.unknown p sp) s = .next { s with trace := s.trace ++ [.unknownPair p sp] }

/-- 40_classifier.md R63: PAIR.S performs the event of its classification; its corner cases and its example. -/
def Obligations.PairWithSpacePerformsItsEvent : Prop :=
  (∀ (s : State) (p v : Nat), Coherent s →
    exec (.pairS p v) s = .next (tableRow (classify s.cfg p (some v)) { pulse := p, space := some v } s))
  ∧ (∀ (cfg : Config) (p v : Nat),
    (p = cfg.profile.bitPulse.min ∨ p = cfg.profile.bitPulse.max →
      classify cfg p (some v) ≠ .gap ∧ classify cfg p (some v) ≠ .bit1 ∧ classify cfg p (some v) ≠ .bit0)
    ∧ (p = cfg.profile.headerPulse.min ∨ p = cfg.profile.headerPulse.max ∨ v = cfg.profile.headerSpace.min
        ∨ v = cfg.profile.headerSpace.max → classify cfg p (some v) ≠ .header)
    ∧ (v = cfg.profile.oneSpace.min ∨ v = cfg.profile.oneSpace.max → classify cfg p (some v) ≠ .bit1)
    ∧ (v = cfg.profile.zeroSpace.min ∨ v = cfg.profile.zeroSpace.max → classify cfg p (some v) ≠ .bit0))
  ∧ (∀ (depth : Option Nat) (p v : Nat),
    (400 < p → p < 750 → classify (defaultConfig depth) p (some 10000) = .unknown
      ∧ classify (defaultConfig depth) p (some 10001) = .gap)
    ∧ (4400 < p → p < 4800 → 10000 < v → classify (defaultConfig depth) p (some v) = .unknown)
    ∧ (400 < p → p < 750 → v ≤ 350 ∨ (750 ≤ v ∧ v ≤ 1500) ∨ (1820 ≤ v ∧ v ≤ 10000) →
      classify (defaultConfig depth) p (some v) = .unknown)
    ∧ (p = 0 ∨ v = 0 ∨ p = 4294967295 → classify (defaultConfig depth) p (some v) = .unknown)
    ∧ classify (defaultConfig depth) 400 (some 560) = .unknown
    ∧ classify (defaultConfig depth) 749 (some 750) = .unknown
    ∧ classify (defaultConfig depth) 560 (some 4294967295) = .gap
    ∧ classify (defaultConfig depth) 560 (some 1690) = .bit1)
  ∧ (∀ durW p v : Nat, p < 2 ^ durW → v < 2 ^ durW → decodeWord durW (2 ^ (2 * durW) + v * 2 ^ durW + p) = .ok (.pairS p v))
  ∧ decodeWord 32 0x10000069A00000230 = .ok (.pairS 560 1690)

/-- 40_classifier.md R64: PAIR.T is a Gap when the pulse is in the bit/gap-pulse window and Unknown otherwise; its corner
cases and its example. -/
def Obligations.TimedOutPairIsGapOrUnknown : Prop :=
  (∀ (s : State) (p : Nat), Coherent s →
    (s.cfg.profile.bitPulse.min < p ∧ p < s.cfg.profile.bitPulse.max →
      exec (.pairT p) s = .next (tableGap none s))
    ∧ (¬ (s.cfg.profile.bitPulse.min < p ∧ p < s.cfg.profile.bitPulse.max) →
      exec (.pairT p) s = .next { s with trace := s.trace ++ [.unknownPair p none] }))
  ∧ (∀ depth : Option Nat,
    classify (defaultConfig depth) 4500 none = .unknown ∧ classify (defaultConfig depth) 400 none = .unknown
    ∧ classify (defaultConfig depth) 750 none = .unknown ∧ classify (defaultConfig depth) 401 none = .gap
    ∧ classify (defaultConfig depth) 749 none = .gap)
  ∧ (∀ durW p x : Nat, p < 2 ^ durW → x < 2 ^ durW → decodeWord durW (x * 2 ^ durW + p) = .ok (.pairT p))
  ∧ decodeWord 32 0x00000000000000230 = .ok (.pairT 560)

/-- 42_message_fsm.md R94: the meanings of the five events and the reset step are the rows of the transition table. The
table has no column for the fault of the run: 60_exceptions.md R109 has it recorded at an overflow, and that the record
stays at a reset is the model's choice (log entry 2). -/
def Obligations.TransitionTableIsTheMachine : Prop :=
  (∀ (c : Classification) (t : Pair) (s : State), Coherent s →
    accStep c t s = .next (tableRow c t s) ∧ exec (eventInstr c t) s = .next (tableRow c t s))
  ∧ (∀ (s : State) (g : Port) (ts : List Input), g.rst = true → s.input = .port g :: ts →
    step s = .next (tableReset { s with input := ts }))

/-- 30_encoding.md R50: the events of one step, in order: exactly one leading event, first. -/
def Obligations.StepEventOrder : Prop :=
  ∀ (s : State) (t : Input) (ts : List Input) (c : Classification), Coherent s → s.input = t :: ts →
    presentsWord s.cfg.durW t = true → inputClass s.cfg t = some c →
    ∃ (u : State) (es : List Event), step s = .next u ∧ u.trace = s.trace ++ es
      ∧ (∃ e rest, es = e :: rest ∧ isLeadEvent e = true ∧ ∀ x ∈ rest, isLeadEvent x = false)
      ∧ (c = .header → es = [.headerSeen])
      ∧ (c = .unknown → es = [.unknownPair (pairOfInput s.cfg.durW t).pulse (pairOfInput s.cfg.durW t).space])
      ∧ (c = .bit0 ∨ c = .bit1 → ∃ v : Bit, v = (if c = .bit1 then 1#1 else 0#1) ∧
          (es = [.bitDecoded v] ∧ s.bitCount.toNat ≤ 6
          ∨ (∃ b, es = [.bitDecoded v, .byteAssembled b] ∨ es = [.bitDecoded v, .overflow b]) ∧ s.bitCount.toNat = 7))
      ∧ (c = .gap → es = [.gapSeen (pairOfInput s.cfg.durW t).space]
          ++ (if s.bitCount = 0 then [] else [.discardedBits s.bitCount]) ++ [.message (message s) s.ovf])

/-- 41_accumulator.md R85: the stored count is `(bit_count + 1) mod 8`, and a byte completes exactly when it is 0. -/
def Obligations.StoredCountAdvancesModEight : Prop :=
  ∀ (s : State) (i : Instr), Coherent s → i = .bit0 ∨ i = .bit1 →
    ∃ (t : State) (es : List Event), exec i s = .next t ∧ t.trace = s.trace ++ es
      ∧ t.bitCount.toNat = (s.bitCount.toNat + 1) % 8
      ∧ ((∃ b, .byteAssembled b ∈ es ∨ .overflow b ∈ es) ↔ t.bitCount.toNat = 0)

/-! ### Frames -/

/-- 42_message_fsm.md R91, R92: what HEADER and UNKNOWN leave unchanged: everything but the output. -/
def Obligations.ReportingEventsFrame : Prop :=
  ∀ (s t : State) (i : Instr), i = .header ∨ (∃ p sp, i = .unknown p sp) → exec i s = .next t →
    t.bitCount = s.bitCount ∧ t.bitBuffer = s.bitBuffer ∧ t.msgLen = s.msgLen ∧ t.ovf = s.ovf ∧ t.cfg = s.cfg
    ∧ t.record = s.record ∧ t.faultRecord = s.faultRecord ∧ t.input = s.input
    ∧ ∀ a, cellAt t.mem a = cellAt s.mem a

/-- 41_accumulator.md R81, R82: what BIT0 and BIT1 leave unchanged: every cell but the one at `msg_len`, stored to only by
the eighth bit with room; `msg_len` but then; `ovf` and the fault record but for the eighth bit on a full buffer. -/
def Obligations.BitEventsFrame : Prop :=
  ∀ (s t : State) (i : Instr), i = .bit0 ∨ i = .bit1 → exec i s = .next t →
    t.cfg = s.cfg ∧ t.record = s.record ∧ t.input = s.input
    ∧ (∀ a, a ≠ s.msgLen → cellAt t.mem a = cellAt s.mem a)
    ∧ (¬ (s.bitCount.toNat = 7 ∧ hasRoom s = true) → t.msgLen = s.msgLen ∧ ∀ a, cellAt t.mem a = cellAt s.mem a)
    ∧ (¬ (s.bitCount.toNat = 7 ∧ hasRoom s = false) → t.ovf = s.ovf ∧ t.faultRecord = s.faultRecord)

/-- 42_message_fsm.md R90: what GAP leaves unchanged: the constants, the fault of the run, the output port and the inputs;
every cell is left without a value, and nothing already emitted is taken back. -/
def Obligations.GapFrame : Prop :=
  ∀ (s t : State) (sp : Option Nat), exec (.gap sp) s = .next t →
    t.cfg = s.cfg ∧ t.record = s.record ∧ t.input = s.input ∧ t.faultRecord = s.faultRecord
    ∧ (∀ a, cellAt t.mem a = none) ∧ s.trace <+: t.trace

/-- 40_classifier.md R63, R64: what PAIR.S and PAIR.T leave unchanged, by their classification; the cell a completed byte
goes to is the one at `msg_len`. -/
def Obligations.PairTransactionsFrame : Prop :=
  ∀ (s t : State) (i : Instr) (c : Classification),
    (∃ p v, i = .pairS p v ∧ c = classify s.cfg p (some v)) ∨ (∃ p, i = .pairT p ∧ c = classify s.cfg p none) →
    exec i s = .next t →
    t.cfg = s.cfg ∧ t.record = s.record ∧ t.input = s.input ∧ s.trace <+: t.trace
    ∧ (c = .unknown ∨ c = .header → sameItems s t ∧ t.faultRecord = s.faultRecord)
    ∧ (c = .bit0 ∨ c = .bit1 → ∀ a, a ≠ s.msgLen → cellAt t.mem a = cellAt s.mem a)
    ∧ ((c = .bit0 ∨ c = .bit1) ∧ ¬ (s.bitCount.toNat = 7 ∧ hasRoom s = true) →
        t.msgLen = s.msgLen ∧ ∀ a, cellAt t.mem a = cellAt s.mem a)
    ∧ (¬ ((c = .bit0 ∨ c = .bit1) ∧ s.bitCount.toNat = 7 ∧ hasRoom s = false) → t.faultRecord = s.faultRecord)
    ∧ ((c = .bit0 ∨ c = .bit1) ∧ ¬ (s.bitCount.toNat = 7 ∧ hasRoom s = false) → t.ovf = s.ovf)

/-! ### The step -/

/-- 42_message_fsm.md R95: a step runs the decoded instruction on the state with its input consumed, and adds the output
record of the events the instruction emitted. -/
def Obligations.StepRunsDecodedInstruction : Prop :=
  ∀ (s : State) (t : Input) (ts : List Input) (i : Instr), s.input = t :: ts →
    (∀ g, t = .port g → g.rst = false ∧ g.iValid = true) → decodeInput s.cfg.durW t = .ok i →
    (∀ u, exec i { s with input := ts } = .next u →
      step s = .next { u with record := some (recordOf (pairOfInput s.cfg.durW t) (u.trace.drop s.trace.length)) })
    ∧ (∀ f, exec i { s with input := ts } = .fault f → step s = .fault f)
    ∧ (∀ r, exec i { s with input := ts } = .refused r → step s = .refused r)

/-- 30_encoding.md R53: with no reset and no valid word nothing changes and no record is produced; the core never refuses
a word of its port. -/
def Obligations.IdleStepAndAlwaysReady : Prop :=
  (∀ (s : State) (w : Nat) (ts : List Input), s.input = .port { rst := false, iValid := false, word := w } :: ts →
    step s = .next { s with input := ts, record := none })
  ∧ (∀ (s : State) (w : Nat) (ts : List Input), Coherent s → w < 2 ^ (2 * s.cfg.durW + 1) →
    s.input = .port { rst := false, iValid := true, word := w } :: ts →
    ∃ u, step s = .next u ∧ u.input = ts ∧ u.record.isSome = true)

/-- 70_reset_and_hazards.md R134: with no further input the core holds its state and emits nothing. -/
def Obligations.EndOfInputEmitsNothing : Prop :=
  ∀ s : State, s.input = [] → ∀ n, Host.Core.run core (n + 1) s = .next { s with record := none }

/-- 70_reset_and_hazards.md R130: a step with `rst = 1` puts every item at its reset value, whatever the state and
whatever word is presented beside it, and emits nothing. That the fault of the run stays is the model's choice (log
entry 2). -/
def Obligations.ResetStepRestoresInitialState : Prop :=
  ∀ (s : State) (v : Bool) (w : Nat) (ts : List Input), s.input = .port { rst := true, iValid := v, word := w } :: ts →
    step s = .next { s with bitCount := 0, bitBuffer := 0, mem := [], msgLen := 0, ovf := false, record := none,
                            input := ts }

/-- 10_state.md R24: the initial state, at launch and after every Gap. -/
def Obligations.InitialStateAtLaunchAndAfterGap : Prop :=
  (∀ cfg : Config, (State.resetWith cfg).bitCount = 0 ∧ (State.resetWith cfg).bitBuffer = 0
    ∧ message (State.resetWith cfg) = [])
  ∧ (∀ (s : State) (sp : Option Nat), Coherent s →
    ∃ t, exec (.gap sp) s = .next t ∧ t.bitCount = 0 ∧ t.bitBuffer = 0 ∧ message t = [])

/-- 60_exceptions.md R105: no step ends in a fault, and on the hardware's inputs every step yields a next state. -/
def Obligations.EveryStepCompletes : Prop :=
  (∀ (s : State) (f : Fault), step s ≠ .fault f)
  ∧ (∀ s : State, Coherent s →
    (∀ g ts, s.input = .port g :: ts → g.word < 2 ^ (2 * s.cfg.durW + 1)) →
    (∀ c p ts, s.input ≠ .event c p :: ts) → ∃ t, step s = .next t)

/-- 70_reset_and_hazards.md R131 and 93 U13: an instruction in a state that violates the invariants is refused,
which is the model's deduction (log entry 6). -/
def Obligations.IncoherentStatesRefused : Prop :=
  ∀ (s : State) (i : Instr), ¬ Coherent s → exec i s = .refused .incoherentState

/-- Exactly when a step on the hardware's port is refused. Both refusals are the model's choice: that of a number wider
than the port (log entry 10; 30_encoding.md R45 gives the width alone), and, deduced, that of a state that violates the
invariants (log entry 6; 70_reset_and_hazards.md R131 gives such a state no meaning). -/
def Obligations.PortStepRefusedExactlyWhen : Prop :=
  ∀ (s : State) (g : Port) (ts : List Input), s.input = .port g :: ts →
    ((∃ r, step s = .refused r) ↔
      g.rst = false ∧ g.iValid = true ∧ (2 ^ (2 * s.cfg.durW + 1) ≤ g.word ∨ ¬ Coherent s))

/-- 30_encoding.md R49: the fields of the output record of a step on a word. -/
def Obligations.OutputRecordFields : Prop :=
  ∀ (s : State) (t : Input) (ts : List Input) (c : Classification), Coherent s → s.input = t :: ts →
    presentsWord s.cfg.durW t = true → inputClass s.cfg t = some c →
    ∃ (u : State) (r : OutRecord), step s = .next u ∧ u.record = some r
      ∧ r.oCls = codeOfClass c
      ∧ r.oPulse = (pairOfInput s.cfg.durW t).pulse ∧ r.oSpace = (pairOfInput s.cfg.durW t).space
      ∧ (r.oByteValid = true ↔ (c = .bit0 ∨ c = .bit1) ∧ s.bitCount.toNat = 7)
      ∧ (r.oByteValid = true → r.oByte.toNat = 2 * s.bitBuffer.toNat + (if c = .bit1 then 1 else 0))
      ∧ (r.oByteValid = false → r.oByte = 0)
      ∧ (r.oOvf = true ↔ r.oByteValid = true ∧ hasRoom s = false)
      ∧ r.oDisc = (if c = .gap then s.bitCount else 0)
      ∧ (r.oMsgValid = true ↔ c = .gap)
      ∧ r.oMsgData = (if c = .gap then message s else [])
      ∧ r.oMsgLen = r.oMsgData.length
      ∧ (r.oMsgTrunc = true ↔ c = .gap ∧ s.ovf = true)

/-- 40_classifier.md R65: two steps given the same word classify it the same, whatever their states hold. -/
def Obligations.ClassificationIgnoresState : Prop :=
  ∀ (s1 s2 u1 u2 : State) (r1 r2 : OutRecord) (w : Nat) (ts1 ts2 : List Input), s1.cfg = s2.cfg →
    s1.input = wordInput w :: ts1 → s2.input = wordInput w :: ts2 →
    step s1 = .next u1 → step s2 = .next u2 → u1.record = some r1 → u2.record = some r2 → r1.oCls = r2.oCls

/-- 40_classifier.md R66: no step reads the output: replacing what was emitted before changes nothing else after. -/
def Obligations.OutputIsNeverReadBack : Prop :=
  ∀ (s u : State) (es : List Event) (r : Option OutRecord), step s = .next u →
    ∃ new, u.trace = s.trace ++ new
      ∧ step (withOutput es r s) = .next (withOutput (es ++ new) u.record u)

/-- 10_state.md R14: no operation's result but `trunc` depends on `ovf`. The two states differ in `ovf` alone. -/
def Obligations.OvfShowsOnlyAsTrunc : Prop :=
  ∀ (s t1 t2 : State) (i : Instr), exec i { s with ovf := true } = .next t1 → exec i { s with ovf := false } = .next t2 →
    hideOvf t1 = hideOvf t2

/-! ### Invariants of the machine -/

/-- 70_reset_and_hazards.md R131: the launch state meets the invariants, and no fault is recorded. -/
def Obligations.LaunchMeetsInvariants : Prop :=
  ∀ cfg : Config, Coherent (State.resetWith cfg) ∧ FaultFree (State.resetWith cfg) ∧ FaultRecordTrue (State.resetWith cfg)
    ∧ Memory.wf (State.resetWith cfg).mem

/-- 10_state.md R23: every step keeps the invariants. -/
def Obligations.StepKeepsCoherent : Prop :=
  ∀ s t : State, Coherent s → step s = .next t → Coherent t

/-- 20_memory.md R31: every step keeps the canonical form of the message buffer, in every state. -/
def Obligations.StepKeepsMemoryCanonical : Prop :=
  ∀ s t : State, Memory.wf s.mem → step s = .next t → Memory.wf t.mem

/-- 10_state.md R16, 20_memory.md R40: no step changes the profile or any other parameter. -/
def Obligations.StepKeepsConfiguration : Prop :=
  ∀ s t : State, step s = .next t → t.cfg = s.cfg

/-- 10_state.md R22: only BIT0, BIT1, GAP and reset write any of the five items. -/
def Obligations.OnlyBitsGapAndResetWriteState : Prop :=
  ∀ s t : State, step s = .next t → ¬ sameItems s t →
    (∃ g ts, s.input = .port g :: ts ∧ g.rst = true)
    ∨ (∃ x ts, s.input = x :: ts ∧ (inputClass s.cfg x = some .bit0 ∨ inputClass s.cfg x = some .bit1
        ∨ inputClass s.cfg x = some .gap))

/-- 60_exceptions.md R109: the fault record is empty exactly when no Overflow event was emitted; every step keeps that. -/
def Obligations.FaultRecordMatchesOverflowEvents : Prop :=
  ∀ s t : State, FaultRecordTrue s → step s = .next t → FaultRecordTrue t

/-- 60_exceptions.md R109: a recorded fault stays for the rest of the run. That it survives a reset is the model's choice
(log entry 2). -/
def Obligations.RecordedFaultStays : Prop :=
  ∀ (s t : State) (f : Fault), s.faultRecord = some f → step s = .next t → t.faultRecord = some f

/-- 10_state.md R13: with an unbounded buffer `ovf` is never set and no Overflow event is emitted. -/
def Obligations.UnboundedBufferNeverOverflows : Prop :=
  ∀ s t : State, Coherent s → s.cfg.msgDepth = none → step s = .next t →
    t.ovf = false ∧ t.faultRecord = s.faultRecord ∧ (noOverflow s.trace = true → noOverflow t.trace = true)

/-- 00_scope.md R5: `LEN_W` bits hold `msg_len`, and no fewer would hold `MSG_DEPTH`. -/
def Obligations.MsgLenFitsLenW : Prop :=
  ∀ (s : State) (d n : Nat), Coherent s → s.cfg.msgDepth = some d → 0 < d → lenWidth s.cfg = some n →
    s.msgLen < 2 ^ n ∧ ∀ m, d < 2 ^ m → n ≤ m

/-- A block is constructed exactly when its parameters fit; the default ones do, and the default profile is well formed
(10_state.md R18). 93 U17 gives the refusal of a constant that does not fit the port. For `DUR_W` below 14 and
`MSG_DEPTH` 0, 00_scope.md R5 and 70_reset_and_hazards.md R132 give the constraint alone: their refusal is the model's
choice (log entry 10). -/
def Obligations.ConstructionChecksParameters : Prop :=
  (∀ cfg : Config, configFits cfg → construct cfg = .next (State.resetWith cfg))
  ∧ (∀ cfg : Config, ¬ configFits cfg → construct cfg = .refused .badConfig)
  ∧ (∀ depth : Option Nat, depth ≠ some 0 → configFits (defaultConfig depth) ∧ profileWellFormed (defaultConfig depth))

/-! ### Runs of inputs and events -/

/-- 42_message_fsm.md R96: the machine run on a list of inputs is the left fold of one input's step. -/
def Obligations.RunIsLeftFold : Prop :=
  (∀ (ts us : List Input) (s : State), runInputs (ts ++ us) s =
    match runInputs ts s with
    | .next t => runInputs us t
    | .fault f => .fault f
    | .refused r => .refused r)
  ∧ (∀ (ts : List Input) (s : State), Host.Core.run core ts.length { s with input := ts } = runInputs ts { s with input := [] })

/-- 41_accumulator.md R87: any sequence of Bit events from a byte boundary, with room for its whole bytes, appends exactly
those bytes, most significant bit first, and leaves the dangling bits in the accumulator. -/
def Obligations.BitEventsPackIntoBytes : Prop :=
  ∀ (vs : List Bit) (s : State), Coherent s → s.bitCount = 0 →
    (∀ d ∈ s.cfg.msgDepth, s.msgLen + vs.length / 8 ≤ d) →
    ∃ t, runEvents (bitEvents vs) s = .next t
      ∧ message t = message s ++ wholeBytes vs
      ∧ t.msgLen = s.msgLen + vs.length / 8
      ∧ t.bitCount.toNat = vs.length % 8
      ∧ t.bitBuffer.toNat = bitsValue (danglingBits vs)
      ∧ t.ovf = s.ovf

/-- 41_accumulator.md R87, 20_memory.md R35: Header and Unknown events interleaved anywhere change nothing of the five
items. -/
def Obligations.HeadersAndNoiseChangeNothing : Prop :=
  ∀ (es : List (Classification × Pair)) (s t u : State),
    runEvents es s = .next t →
    runEvents (es.filter (fun e => e.1 != .header && e.1 != .unknown)) s = .next u →
    sameItems t u ∧ t.faultRecord = u.faultRecord

/-- 42_message_fsm.md R97 (b): a Header or not, the bits of known bytes, then a Gap, yields exactly those bytes in
order. -/
def Obligations.MessageRoundTrip : Prop :=
  ∀ (bytes : List Byte) (s : State) (t : Pair) (lead : List (Classification × Pair)), Coherent s → s.bitCount = 0 →
    s.msgLen = 0 → s.ovf = false → (∀ d ∈ s.cfg.msgDepth, bytes.length ≤ d) →
    lead = [] ∨ (∃ h, lead = [(.header, h)]) →
    ∃ u, runEvents (lead ++ bitEvents (bytes.flatMap byteBits) ++ [(.gap, t)]) s = .next u
      ∧ messagesOf u.trace = messagesOf s.trace ++ [(bytes, false)] ∧ u.bitCount = 0

/-- 42_message_fsm.md R97 (a), 20_memory.md R37: the second of two Gaps in a row emits an empty message and discards
nothing. -/
def Obligations.SecondGapIsEmpty : Prop :=
  ∀ (s : State) (sp1 sp2 : Option Nat), Coherent s →
    ∃ t u, exec (.gap sp1) s = .next t ∧ exec (.gap sp2) t = .next u
      ∧ u.trace = t.trace ++ [.gapSeen sp2, .message [] false]

/-- 42_message_fsm.md R97 (c), 70_reset_and_hazards.md R136: a run emits as many messages as it has inputs classified
Gap. -/
def Obligations.MessagesCountGaps : Prop :=
  ∀ (ts : List Input) (s t : State), runInputs ts s = .next t →
    (messagesOf t.trace).length
      = (messagesOf s.trace).length + ts.countP (fun x => inputClass s.cfg x == some .gap)

/-- 70_reset_and_hazards.md R133: the first transaction after reset may be any word; a Bit starts the first byte at
once. -/
def Obligations.FirstTransactionMayBeAnyWord : Prop :=
  ∀ (cfg : Config) (w : Nat) (ts : List Input), w < 2 ^ (2 * cfg.durW + 1) →
    ∃ t, step (launch cfg (wordInput w :: ts)) = .next t
      ∧ (inputClass cfg (wordInput w) = some .bit0 → t.bitCount = 1 ∧ t.bitBuffer = 0)
      ∧ (inputClass cfg (wordInput w) = some .bit1 → t.bitCount = 1 ∧ t.bitBuffer = 1)

/-! ### The feeder and the output consumer -/

/-- 60_exceptions.md R120: pairs are delivered in the order of the lines, each exactly once, clamped, as words that decode
to them. -/
def Obligations.FeederDeliversPairsInOrder : Prop :=
  (∀ (durW : Nat) (pairs : List (Int × Int)),
    feed durW (pairs.flatMap (fun x => [.pulseLine x.1, .spaceLine x.2])) feederStart
      = .next feederStart (pairs.map (fun x => deliverPair durW x.1 (some x.2))))
  ∧ (∀ (durW : Nat) (p m : Int),
    decodeInput durW (deliverPair durW p (some m)) = .ok (.pairS (clampWidth durW p) (clampWidth durW m)))

/-- 60_exceptions.md R122, R123: a timeout delivers a pending pulse exactly once, as PAIR.T, and discards it; with nothing
pending it delivers nothing. -/
def Obligations.FeederTimeout : Prop :=
  (∀ (durW : Nat) (f : Feeder) (p : Int), f.running = true → f.pending = some p →
    ∃ x, feed durW [.timeout, .timeout] f = .next { f with pending := none } [x]
      ∧ decodeInput durW x = .ok (.pairT (clampWidth durW p)))
  ∧ (∀ (durW : Nat) (f : Feeder), f.pending = none → feederStep durW .timeout f = .next f [])

/-- 60_exceptions.md R110, R124, R125: a malformed line changes nothing; after the end of the stream nothing is delivered,
not even a pending pulse; lines that do not alternate are refused. That the pending pulse is kept over a malformed line is
a reading R110 marks as its own, deduced from "no state mutation" (log entry 8). -/
def Obligations.FeederSkipsEndsAndRefuses : Prop :=
  (∀ (durW : Nat) (f : Feeder), feederStep durW .malformedLine f = .next f [])
  ∧ (∀ (durW : Nat) (f : Feeder) (e : FeederInput) (is : List FeederInput), e = .endOfStream ∨ e = .readError →
    ∃ g, feed durW (e :: is) f = .next g [])
  ∧ (∀ (durW : Nat) (f : Feeder) (n : Int), f.running = true →
    (f.pending.isSome = true → feederStep durW (.pulseLine n) f = .refused .notAlternating)
    ∧ (f.pending = none → feederStep durW (.spaceLine n) f = .refused .notAlternating))

/-- 42_message_fsm.md R98: two lower-case hexadecimal digits a byte, the digit of `b / 16` and then the digit of `b % 16`,
concatenated, and no two messages render the same. -/
def Obligations.RenderingIsTwoHexDigitsPerByte : Prop :=
  (∀ b : Byte, renderMessage [b] = renderByte b
    ∧ (renderByte b).map some
      = ["0123456789abcdef".toList[b.toNat / 16]?, "0123456789abcdef".toList[b.toNat % 16]?])
  ∧ (∀ bytes : List Byte, (renderMessage bytes).length = 2 * bytes.length
    ∧ ∀ c ∈ renderMessage bytes, c ∈ "0123456789abcdef".toList)
  ∧ (∀ xs ys : List Byte, renderMessage (xs ++ ys) = renderMessage xs ++ renderMessage ys)
  ∧ (∀ xs ys : List Byte, renderMessage xs = renderMessage ys → xs = ys)
end

