-- ==== Sys2Proof/Laws/Classifier.lean ====
section
/-! SUPPORT. The four conditions of the decision list (40_classifier.md R62) as propositions about numbers. -/

namespace Sys2Proof.Machine

theorem isGap_iff (cfg : Config) (p : Nat) (s : Option Nat) : isGap cfg p s = true ↔
    (cfg.profile.bitPulse.min < p ∧ p < cfg.profile.bitPulse.max) ∧ (s = none ∨ ∃ v, s = some v ∧ cfg.gapSpaceMin < v) := by
  cases s <;> simp [isGap, within, aboveGap]

theorem isHeader_iff (cfg : Config) (p : Nat) (s : Option Nat) : isHeader cfg p s = true ↔
    (cfg.profile.headerPulse.min < p ∧ p < cfg.profile.headerPulse.max)
    ∧ ∃ v, s = some v ∧ cfg.profile.headerSpace.min < v ∧ v < cfg.profile.headerSpace.max := by
  cases s <;> simp [isHeader, within, withinOpt]

theorem isOne_iff (cfg : Config) (p : Nat) (s : Option Nat) : isOne cfg p s = true ↔
    (cfg.profile.bitPulse.min < p ∧ p < cfg.profile.bitPulse.max)
    ∧ ∃ v, s = some v ∧ cfg.profile.oneSpace.min < v ∧ v < cfg.profile.oneSpace.max := by
  cases s <;> simp [isOne, within, withinOpt]

theorem isZero_iff (cfg : Config) (p : Nat) (s : Option Nat) : isZero cfg p s = true ↔
    (cfg.profile.bitPulse.min < p ∧ p < cfg.profile.bitPulse.max)
    ∧ ∃ v, s = some v ∧ cfg.profile.zeroSpace.min < v ∧ v < cfg.profile.zeroSpace.max := by
  cases s <;> simp [isZero, within, withinOpt]

/-- The ordered list, one line at a time: which conditions a classification tells of. -/
theorem classify_cases (cfg : Config) (p : Nat) (s : Option Nat) :
    (isGap cfg p s = true ∧ classify cfg p s = .gap)
    ∨ (isGap cfg p s = false ∧ isHeader cfg p s = true ∧ classify cfg p s = .header)
    ∨ (isGap cfg p s = false ∧ isHeader cfg p s = false ∧ isOne cfg p s = true ∧ classify cfg p s = .bit1)
    ∨ (isGap cfg p s = false ∧ isHeader cfg p s = false ∧ isOne cfg p s = false ∧ isZero cfg p s = true
        ∧ classify cfg p s = .bit0)
    ∨ (isGap cfg p s = false ∧ isHeader cfg p s = false ∧ isOne cfg p s = false ∧ isZero cfg p s = false
        ∧ classify cfg p s = .unknown) := by
  unfold classify
  cases isGap cfg p s <;> cases isHeader cfg p s <;> cases isOne cfg p s <;> cases isZero cfg p s <;> simp

end Sys2Proof.Machine
end

