-- ==== Sys2Proof/Laws/Memory.lean ====
section
/-! SUPPORT. The laws of the message buffer: read after write, the canonical form is kept, a store at `msg_len` appends,
and the read of the valid part is the list form (20_memory.md R31). -/

namespace Sys2Proof.Machine

theorem cellAt_cellPut_same (m : Memory) (a : Nat) (b : Byte) : cellAt (cellPut m a b) a = some b := by
  induction m with
  | nil => simp [cellPut, cellAt]
  | cons c cs ih =>
    unfold cellPut
    split
    · simp [cellAt]
    · split
      · simp [cellAt]
      · rename_i h; simp [cellAt, h, ih]

theorem cellAt_cellPut_ne (m : Memory) {a k : Nat} (b : Byte) (h : k ≠ a) :
    cellAt (cellPut m a b) k = cellAt m k := by
  induction m with
  | nil => simp [cellPut, cellAt, Ne.symm h]
  | cons c cs ih =>
    unfold cellPut
    split
    · simp [cellAt, Ne.symm h]
    · split
      · rename_i hc; simp [cellAt, Ne.symm h, hc]
      · simp only [cellAt, ih]

/-- The addresses after a store: those before and the one stored to. -/
theorem mem_addrs_cellPut (m : Memory) (a : Nat) (b : Byte) (k : Nat) :
    k ∈ (cellPut m a b).map Prod.fst ↔ k = a ∨ k ∈ m.map Prod.fst := by
  induction m with
  | nil => simp [cellPut]
  | cons c cs ih =>
    unfold cellPut
    split
    · simp
    · split
      · rename_i hc; simp only [List.map_cons, List.mem_cons, hc]; tauto
      · simp only [List.map_cons, List.mem_cons, ih]; tauto

theorem cellPut_wf {m : Memory} (h : Memory.wf m) (a : Nat) (b : Byte) : Memory.wf (cellPut m a b) := by
  induction m with
  | nil => simp [Memory.wf, cellPut]
  | cons c cs ih =>
    simp only [Memory.wf, List.map_cons, List.pairwise_cons] at h ih ⊢
    unfold cellPut
    split
    · rename_i hlt
      simp only [List.map_cons, List.pairwise_cons, List.mem_cons]
      refine ⟨?_, h⟩
      rintro k (rfl | hk)
      · exact hlt
      · exact lt_trans hlt (h.1 k hk)
    · split
      · rename_i hc
        simp only [List.map_cons, List.pairwise_cons]
        exact ⟨fun k hk => hc ▸ h.1 k hk, h.2⟩
      · rename_i h1 h2
        simp only [List.map_cons, List.pairwise_cons]
        refine ⟨fun k hk => ?_, ih h.2⟩
        rcases (mem_addrs_cellPut cs a b k).1 hk with rfl | hk
        · omega
        · exact h.1 k hk

theorem memWrite_wf {m : Memory} (h : Memory.wf m) (a : Nat) (bs : List Byte) : Memory.wf (memWrite m a bs) := by
  induction bs generalizing m a with
  | nil => exact h
  | cons b bs ih => exact ih (cellPut_wf h a b) (a + 1)

theorem cellAt_memWrite_ne (m : Memory) {a k : Nat} (b : Byte) (h : k ≠ a) :
    cellAt (memWrite m a [b]) k = cellAt m k := cellAt_cellPut_ne m b h

/-- A store above every listed cell appends. -/
theorem cellPut_append (m : Memory) (a : Nat) (b : Byte) (h : ∀ k ∈ m.map Prod.fst, k < a) :
    cellPut m a b = m ++ [(a, b)] := by
  induction m with
  | nil => rfl
  | cons c cs ih =>
    simp only [List.map_cons, List.mem_cons, forall_eq_or_imp] at h
    have h1 : ¬ a < c.1 := by omega
    have h2 : c.1 ≠ a := by omega
    simp [cellPut, h1, h2, ih h.2]

/-- With the cells exactly those below `n`, a store at `n` appends one cell. -/
theorem memWrite_at_length {m : Memory} {n : Nat} (h : m.map Prod.fst = List.range n) (b : Byte) :
    memWrite m n [b] = m ++ [(n, b)] :=
  cellPut_append m n b (fun k hk => by rw [h] at hk; exact List.mem_range.1 hk)

theorem cellAt_of_not_listed (m : Memory) (a : Nat) (h : ∀ k ∈ m.map Prod.fst, k ≠ a) (r : Memory) :
    cellAt (m ++ r) a = cellAt r a := by
  induction m with
  | nil => rfl
  | cons c cs ih =>
    simp only [List.map_cons, List.mem_cons, forall_eq_or_imp] at h
    simp [cellAt, h.1, ih h.2]

/-- Reading a block of consecutive listed cells gives their bytes. -/
theorem memRead_block (pre r : Memory) (k n : Nat) (hpre : ∀ j ∈ pre.map Prod.fst, j < k)
    (h : r.map Prod.fst = List.range' k n) : memRead (pre ++ r) k n = some (r.map Prod.snd) := by
  induction n generalizing pre r k with
  | zero => simp_all [memRead]
  | succ n ih =>
    cases r with
    | nil => simp [List.range'_succ] at h
    | cons c cs =>
      simp only [List.map_cons, List.range'_succ, List.cons.injEq] at h
      have hc : cellAt (pre ++ c :: cs) k = some c.2 := by
        rw [cellAt_of_not_listed pre k (fun j hj => Nat.ne_of_lt (hpre j hj))]
        simp [cellAt, h.1]
      have := ih (pre ++ [c]) cs (k + 1) (by
        intro j hj
        simp only [List.map_append, List.map_cons, List.map_nil, List.mem_append, List.mem_singleton] at hj
        rcases hj with hj | rfl
        · have := hpre j hj; omega
        · omega) h.2
      simp only [List.append_assoc, List.singleton_append] at this
      simp [memRead, hc, this]

/-- `MemRead(0, msg_len)` of a buffer whose cells are those below `msg_len` is the list form. -/
theorem memRead_all {m : Memory} {n : Nat} (h : m.map Prod.fst = List.range n) :
    memRead m 0 n = some (m.map Prod.snd) :=
  memRead_block [] m 0 n (by simp) (by rw [h, List.range_eq_range'])

theorem coherent_memory_wf {s : State} (h : Coherent s) : Memory.wf s.mem := by
  unfold Memory.wf
  rw [h.2.1]
  exact List.pairwise_lt_range

/-- A cell the buffer of a coherent state does not count holds no value (10_state.md R13). -/
theorem cellAt_ge_msgLen {s : State} (h : Coherent s) {a : Nat} (ha : s.msgLen ≤ a) : cellAt s.mem a = none := by
  have := cellAt_of_not_listed s.mem a (fun k hk => by
    rw [h.2.1] at hk; have := List.mem_range.1 hk; omega) []
  simpa [cellAt] using this

theorem message_length {s : State} (h : Coherent s) : (message s).length = s.msgLen := by
  have := congrArg List.length h.2.1
  simpa [message] using this

end Sys2Proof.Machine
end

