-- ==== Sys2Proof/Laws/State.lean ====
section
/-! SUPPORT. One lemma per field of State and named update, so that no later proof unfolds a record update. -/

namespace Sys2Proof.Machine

/-! ### emit -/
@[simp] theorem emit_cfg (e : Event) (s : State) : (emit e s).cfg = s.cfg := rfl
@[simp] theorem emit_bitCount (e : Event) (s : State) : (emit e s).bitCount = s.bitCount := rfl
@[simp] theorem emit_bitBuffer (e : Event) (s : State) : (emit e s).bitBuffer = s.bitBuffer := rfl
@[simp] theorem emit_mem (e : Event) (s : State) : (emit e s).mem = s.mem := rfl
@[simp] theorem emit_msgLen (e : Event) (s : State) : (emit e s).msgLen = s.msgLen := rfl
@[simp] theorem emit_ovf (e : Event) (s : State) : (emit e s).ovf = s.ovf := rfl
@[simp] theorem emit_record (e : Event) (s : State) : (emit e s).record = s.record := rfl
@[simp] theorem emit_trace (e : Event) (s : State) : (emit e s).trace = s.trace ++ [e] := rfl
@[simp] theorem emit_faultRecord (e : Event) (s : State) : (emit e s).faultRecord = s.faultRecord := rfl
@[simp] theorem emit_input (e : Event) (s : State) : (emit e s).input = s.input := rfl

/-! ### setBits -/
@[simp] theorem setBits_cfg (c : BitVec 3) (b : Byte) (s : State) : (setBits c b s).cfg = s.cfg := rfl
@[simp] theorem setBits_bitCount (c : BitVec 3) (b : Byte) (s : State) : (setBits c b s).bitCount = c := rfl
@[simp] theorem setBits_bitBuffer (c : BitVec 3) (b : Byte) (s : State) : (setBits c b s).bitBuffer = b := rfl
@[simp] theorem setBits_mem (c : BitVec 3) (b : Byte) (s : State) : (setBits c b s).mem = s.mem := rfl
@[simp] theorem setBits_msgLen (c : BitVec 3) (b : Byte) (s : State) : (setBits c b s).msgLen = s.msgLen := rfl
@[simp] theorem setBits_ovf (c : BitVec 3) (b : Byte) (s : State) : (setBits c b s).ovf = s.ovf := rfl
@[simp] theorem setBits_record (c : BitVec 3) (b : Byte) (s : State) : (setBits c b s).record = s.record := rfl
@[simp] theorem setBits_trace (c : BitVec 3) (b : Byte) (s : State) : (setBits c b s).trace = s.trace := rfl
@[simp] theorem setBits_faultRecord (c : BitVec 3) (b : Byte) (s : State) : (setBits c b s).faultRecord = s.faultRecord := rfl
@[simp] theorem setBits_input (c : BitVec 3) (b : Byte) (s : State) : (setBits c b s).input = s.input := rfl

/-! ### storeByte -/
@[simp] theorem storeByte_cfg (b : Byte) (s : State) : (storeByte b s).cfg = s.cfg := rfl
@[simp] theorem storeByte_bitCount (b : Byte) (s : State) : (storeByte b s).bitCount = s.bitCount := rfl
@[simp] theorem storeByte_bitBuffer (b : Byte) (s : State) : (storeByte b s).bitBuffer = s.bitBuffer := rfl
@[simp] theorem storeByte_mem (b : Byte) (s : State) : (storeByte b s).mem = memWrite s.mem s.msgLen [b] := rfl
@[simp] theorem storeByte_msgLen (b : Byte) (s : State) : (storeByte b s).msgLen = s.msgLen + 1 := rfl
@[simp] theorem storeByte_ovf (b : Byte) (s : State) : (storeByte b s).ovf = s.ovf := rfl
@[simp] theorem storeByte_record (b : Byte) (s : State) : (storeByte b s).record = s.record := rfl
@[simp] theorem storeByte_trace (b : Byte) (s : State) : (storeByte b s).trace = s.trace := rfl
@[simp] theorem storeByte_faultRecord (b : Byte) (s : State) : (storeByte b s).faultRecord = s.faultRecord := rfl
@[simp] theorem storeByte_input (b : Byte) (s : State) : (storeByte b s).input = s.input := rfl

/-! ### recordFault -/
@[simp] theorem recordFault_cfg (f : Fault) (s : State) : (recordFault f s).cfg = s.cfg := rfl
@[simp] theorem recordFault_bitCount (f : Fault) (s : State) : (recordFault f s).bitCount = s.bitCount := rfl
@[simp] theorem recordFault_bitBuffer (f : Fault) (s : State) : (recordFault f s).bitBuffer = s.bitBuffer := rfl
@[simp] theorem recordFault_mem (f : Fault) (s : State) : (recordFault f s).mem = s.mem := rfl
@[simp] theorem recordFault_msgLen (f : Fault) (s : State) : (recordFault f s).msgLen = s.msgLen := rfl
@[simp] theorem recordFault_ovf (f : Fault) (s : State) : (recordFault f s).ovf = s.ovf := rfl
@[simp] theorem recordFault_record (f : Fault) (s : State) : (recordFault f s).record = s.record := rfl
@[simp] theorem recordFault_trace (f : Fault) (s : State) : (recordFault f s).trace = s.trace := rfl
@[simp] theorem recordFault_faultRecord (f : Fault) (s : State) : (recordFault f s).faultRecord = some f := rfl
@[simp] theorem recordFault_input (f : Fault) (s : State) : (recordFault f s).input = s.input := rfl

/-! ### setOvf -/
@[simp] theorem setOvf_cfg (s : State) : (setOvf s).cfg = s.cfg := rfl
@[simp] theorem setOvf_bitCount (s : State) : (setOvf s).bitCount = s.bitCount := rfl
@[simp] theorem setOvf_bitBuffer (s : State) : (setOvf s).bitBuffer = s.bitBuffer := rfl
@[simp] theorem setOvf_mem (s : State) : (setOvf s).mem = s.mem := rfl
@[simp] theorem setOvf_msgLen (s : State) : (setOvf s).msgLen = s.msgLen := rfl
@[simp] theorem setOvf_ovf (s : State) : (setOvf s).ovf = true := rfl
@[simp] theorem setOvf_record (s : State) : (setOvf s).record = s.record := rfl
@[simp] theorem setOvf_trace (s : State) : (setOvf s).trace = s.trace := rfl
@[simp] theorem setOvf_faultRecord (s : State) : (setOvf s).faultRecord = s.faultRecord := rfl
@[simp] theorem setOvf_input (s : State) : (setOvf s).input = s.input := rfl

/-! ### toInitial -/
@[simp] theorem toInitial_cfg (s : State) : (toInitial s).cfg = s.cfg := rfl
@[simp] theorem toInitial_bitCount (s : State) : (toInitial s).bitCount = 0#3 := rfl
@[simp] theorem toInitial_bitBuffer (s : State) : (toInitial s).bitBuffer = 0#8 := rfl
@[simp] theorem toInitial_mem (s : State) : (toInitial s).mem = [] := rfl
@[simp] theorem toInitial_msgLen (s : State) : (toInitial s).msgLen = 0 := rfl
@[simp] theorem toInitial_ovf (s : State) : (toInitial s).ovf = false := rfl
@[simp] theorem toInitial_record (s : State) : (toInitial s).record = s.record := rfl
@[simp] theorem toInitial_trace (s : State) : (toInitial s).trace = s.trace := rfl
@[simp] theorem toInitial_faultRecord (s : State) : (toInitial s).faultRecord = s.faultRecord := rfl
@[simp] theorem toInitial_input (s : State) : (toInitial s).input = s.input := rfl

/-! ### setRecord -/
@[simp] theorem setRecord_cfg (r : Option OutRecord) (s : State) : (setRecord r s).cfg = s.cfg := rfl
@[simp] theorem setRecord_bitCount (r : Option OutRecord) (s : State) : (setRecord r s).bitCount = s.bitCount := rfl
@[simp] theorem setRecord_bitBuffer (r : Option OutRecord) (s : State) : (setRecord r s).bitBuffer = s.bitBuffer := rfl
@[simp] theorem setRecord_mem (r : Option OutRecord) (s : State) : (setRecord r s).mem = s.mem := rfl
@[simp] theorem setRecord_msgLen (r : Option OutRecord) (s : State) : (setRecord r s).msgLen = s.msgLen := rfl
@[simp] theorem setRecord_ovf (r : Option OutRecord) (s : State) : (setRecord r s).ovf = s.ovf := rfl
@[simp] theorem setRecord_record (r : Option OutRecord) (s : State) : (setRecord r s).record = r := rfl
@[simp] theorem setRecord_trace (r : Option OutRecord) (s : State) : (setRecord r s).trace = s.trace := rfl
@[simp] theorem setRecord_faultRecord (r : Option OutRecord) (s : State) : (setRecord r s).faultRecord = s.faultRecord := rfl
@[simp] theorem setRecord_input (r : Option OutRecord) (s : State) : (setRecord r s).input = s.input := rfl

/-! ### setInput -/
@[simp] theorem setInput_cfg (ts : List Input) (s : State) : (setInput ts s).cfg = s.cfg := rfl
@[simp] theorem setInput_bitCount (ts : List Input) (s : State) : (setInput ts s).bitCount = s.bitCount := rfl
@[simp] theorem setInput_bitBuffer (ts : List Input) (s : State) : (setInput ts s).bitBuffer = s.bitBuffer := rfl
@[simp] theorem setInput_mem (ts : List Input) (s : State) : (setInput ts s).mem = s.mem := rfl
@[simp] theorem setInput_msgLen (ts : List Input) (s : State) : (setInput ts s).msgLen = s.msgLen := rfl
@[simp] theorem setInput_ovf (ts : List Input) (s : State) : (setInput ts s).ovf = s.ovf := rfl
@[simp] theorem setInput_record (ts : List Input) (s : State) : (setInput ts s).record = s.record := rfl
@[simp] theorem setInput_trace (ts : List Input) (s : State) : (setInput ts s).trace = s.trace := rfl
@[simp] theorem setInput_faultRecord (ts : List Input) (s : State) : (setInput ts s).faultRecord = s.faultRecord := rfl
@[simp] theorem setInput_input (ts : List Input) (s : State) : (setInput ts s).input = ts := rfl

/-! ### reset -/
@[simp] theorem resetWith_cfg (cfg : Config) : (State.resetWith cfg).cfg = cfg := rfl
@[simp] theorem resetWith_bitCount (cfg : Config) : (State.resetWith cfg).bitCount = 0#3 := rfl
@[simp] theorem resetWith_bitBuffer (cfg : Config) : (State.resetWith cfg).bitBuffer = 0#8 := rfl
@[simp] theorem resetWith_mem (cfg : Config) : (State.resetWith cfg).mem = [] := rfl
@[simp] theorem resetWith_msgLen (cfg : Config) : (State.resetWith cfg).msgLen = 0 := rfl
@[simp] theorem resetWith_ovf (cfg : Config) : (State.resetWith cfg).ovf = false := rfl
@[simp] theorem resetWith_record (cfg : Config) : (State.resetWith cfg).record = none := rfl
@[simp] theorem resetWith_trace (cfg : Config) : (State.resetWith cfg).trace = [] := rfl
@[simp] theorem resetWith_faultRecord (cfg : Config) : (State.resetWith cfg).faultRecord = none := rfl
@[simp] theorem resetWith_input (cfg : Config) : (State.resetWith cfg).input = [] := rfl

end Sys2Proof.Machine
end

