-- ==== Sys2Proof/Laws/Ops.lean ====
section
/-! SUPPORT. One spec lemma per shared operation: what it does to a coherent state, said once. -/

namespace Sys2Proof.Machine

theorem whenCoherent_of_coherent {s : State} (h : Coherent s) (k : State → Answer) : whenCoherent s k = k s := by
  simp only [whenCoherent, if_pos h]

theorem whenCoherent_of_not {s : State} (h : ¬ Coherent s) (k : State → Answer) :
    whenCoherent s k = .refused .incoherentState := by
  simp only [whenCoherent, if_neg h]

/-- A next state under the guard means that the state was coherent and the guarded operation answered it. -/
theorem whenCoherent_next {s t : State} {k : State → Answer} (h : whenCoherent s k = .next t) :
    Coherent s ∧ k s = .next t := by
  unfold whenCoherent at h
  split at h
  · exact ⟨‹_›, h⟩
  · cases h

/-- The shift loses nothing when the buffer is below 128 (41_accumulator.md R86). -/
theorem shiftIn_toNat (buf : Byte) (v : Bit) (h : buf.toNat < 128) : (shiftIn buf v).toNat = 2 * buf.toNat + v.toNat := by
  have key : ∀ b : Byte, b.toNat < 128 → ∀ x : Bit, (shiftIn b x).toNat = 2 * b.toNat + x.toNat := by decide
  exact key buf h v

theorem hasRoom_true_iff (s : State) : hasRoom s = true ↔ ∀ d ∈ s.cfg.msgDepth, s.msgLen < d := by
  unfold hasRoom
  split <;> simp_all

@[simp] theorem hasRoom_emit (e : Event) (s : State) : hasRoom (emit e s) = hasRoom s := rfl

/-- The byte-complete transition with room (41_accumulator.md R83). -/
theorem byteComplete_room {s : State} (h : hasRoom s = true) (b : Byte) :
    byteComplete b s = emit (.byteAssembled b) (storeByte b s) := by
  simp only [byteComplete, if_pos h]

/-- The byte-complete transition on a full buffer (41_accumulator.md R84). -/
theorem byteComplete_full {s : State} (h : hasRoom s = false) (b : Byte) :
    byteComplete b s = emit (.overflow b) (recordFault .messageOverflow (setOvf s)) := by
  simp only [byteComplete, h, Bool.false_eq_true, if_false]

/-- Everything a Bit event can do (42_message_fsm.md R94, the BIT rows). -/
theorem bitEvent_cases (v : Bit) (s : State) :
    (s.bitCount.toNat ≤ 6 ∧ bitEvent v s =
      setBits (BitVec.ofNat 3 (s.bitCount.toNat + 1)) (shiftIn s.bitBuffer v) (emit (.bitDecoded v) s))
    ∨ (s.bitCount.toNat = 7 ∧ hasRoom s = true ∧ bitEvent v s =
      setBits 0#3 0#8 (emit (.byteAssembled (shiftIn s.bitBuffer v))
        (storeByte (shiftIn s.bitBuffer v) (emit (.bitDecoded v) s))))
    ∨ (s.bitCount.toNat = 7 ∧ hasRoom s = false ∧ bitEvent v s =
      setBits 0#3 0#8 (emit (.overflow (shiftIn s.bitBuffer v))
        (recordFault .messageOverflow (setOvf (emit (.bitDecoded v) s))))) := by
  have hlt := s.bitCount.isLt
  by_cases hc : s.bitCount.toNat + 1 < 8
  · exact .inl ⟨by omega, by simp only [bitEvent, if_pos hc]⟩
  · refine .inr ?_
    have h7 : s.bitCount.toNat = 7 := by omega
    cases hr : hasRoom s with
    | true =>
      exact .inl ⟨h7, rfl, by
        simp only [bitEvent, if_neg hc]
        rw [byteComplete_room (s := emit (.bitDecoded v) s) (by simpa using hr)]⟩
    | false =>
      exact .inr ⟨h7, rfl, by
        simp only [bitEvent, if_neg hc]
        rw [byteComplete_full (s := emit (.bitDecoded v) s) (by simpa using hr)]⟩

/-- `gap()` on a coherent state (42_message_fsm.md R90). -/
theorem gapEvent_coherent {s : State} (h : Coherent s) (sp : Option Nat) :
    gapEvent sp s =
      .next (toInitial (emit (.message (message s) s.ovf) (emitDiscarded (emit (.gapSeen sp) s)))) := by
  simp only [gapEvent, memRead_all h.2.1, truncOf, message]

/-- The discard report: the trace grows by at most one event and nothing else changes. -/
theorem emitDiscarded_eq (s : State) :
    emitDiscarded s = { s with trace := s.trace ++ (if s.bitCount = 0#3 then [] else [.discardedBits s.bitCount]) } := by
  unfold emitDiscarded
  split <;> simp [emit]

/-- Every word of the port's width decodes (30_encoding.md R51). -/
theorem decodeWord_of_lt {durW w : Nat} (h : w < 2 ^ (2 * durW + 1)) :
    decodeWord durW w = .ok (pairInstr (pairOfWord durW w)) := if_pos h

/-- No wider number does. -/
theorem decodeWord_of_le {durW w : Nat} (h : 2 ^ (2 * durW + 1) ≤ w) : decodeWord durW w = .error .wordTooWide :=
  if_neg (Nat.not_lt.2 h)

theorem runDecoded_of_ok {t : Input} {s : State} {i : Instr} (h : decodeInput s.cfg.durW t = .ok i) :
    runDecoded t s = present (pairOfInput s.cfg.durW t) s.trace (exec i s) := by
  simp only [runDecoded, h]

theorem runDecoded_of_error {t : Input} {s : State} {e : DecodeError} (h : decodeInput s.cfg.durW t = .error e) :
    runDecoded t s = .refused (refusalOf e) := by
  simp only [runDecoded, h]

/-- A transaction on the port is performed as `acc_step` of its classification (42_message_fsm.md R95). -/
theorem exec_pairInstr (t : Pair) (s : State) :
    exec (pairInstr t) s = accStep (classify s.cfg t.pulse t.space) t s := by
  obtain ⟨p, sp⟩ := t
  cases sp <;> rfl

/-- An event answers a next state only in a coherent state. -/
theorem accStep_next_coherent {c : Classification} {t : Pair} {s u : State} (h : accStep c t s = .next u) :
    Coherent s := by
  cases c <;> simp only [accStep, execUnknown, execHeader, execBit0, execBit1, execGap] at h <;>
    exact (whenCoherent_next h).1

/-- An instruction answers a next state only in a coherent state. -/
theorem exec_next_coherent {i : Instr} {s u : State} (h : exec i s = .next u) : Coherent s := by
  cases i with
  | pairS p v => exact accStep_next_coherent (c := classify s.cfg p (some v)) h
  | pairT p => exact accStep_next_coherent (c := classify s.cfg p none) h
  | unknown p sp => exact accStep_next_coherent (c := .unknown) (t := { pulse := p, space := sp }) h
  | header => exact accStep_next_coherent (c := .header) (t := { pulse := 0, space := none }) h
  | bit0 => exact accStep_next_coherent (c := .bit0) (t := { pulse := 0, space := none }) h
  | bit1 => exact accStep_next_coherent (c := .bit1) (t := { pulse := 0, space := none }) h
  | gap sp => exact accStep_next_coherent (c := .gap) (t := { pulse := 0, space := sp }) h

/-- What an answer on an input can be: a reset, an idle step, a refusal to decode, or an instruction's own answer. -/
theorem performInput_cases (t : Input) (s : State) :
    (∃ g, t = .port g ∧ g.rst = true ∧ performInput t s = .next (resetStep s))
    ∨ (∃ g, t = .port g ∧ g.rst = false ∧ g.iValid = false ∧ performInput t s = .next (idleStep s))
    ∨ (∃ e, decodeInput s.cfg.durW t = .error e ∧ performInput t s = .refused (refusalOf e))
    ∨ (∃ i, decodeInput s.cfg.durW t = .ok i
        ∧ performInput t s = present (pairOfInput s.cfg.durW t) s.trace (exec i s)) := by
  have hrun : (∃ e, decodeInput s.cfg.durW t = .error e ∧ runDecoded t s = .refused (refusalOf e))
      ∨ (∃ i, decodeInput s.cfg.durW t = .ok i
        ∧ runDecoded t s = present (pairOfInput s.cfg.durW t) s.trace (exec i s)) := by
    unfold runDecoded
    cases decodeInput s.cfg.durW t with
    | error e => exact .inl ⟨e, rfl, rfl⟩
    | ok i => exact .inr ⟨i, rfl, rfl⟩
  cases t with
  | event c p => exact .inr (.inr hrun)
  | port g =>
    cases hr : g.rst with
    | true => exact .inl ⟨g, rfl, hr, by simp only [performInput, hr, if_true]⟩
    | false =>
      cases hv : g.iValid with
      | false => exact .inr (.inl ⟨g, rfl, hr, hv, by simp [performInput, hr, hv]⟩)
      | true =>
        refine .inr (.inr ?_)
        have : performInput (.port g) s = runDecoded (.port g) s := by simp [performInput, hr, hv]
        rw [this]
        exact hrun

/-- The record is all that `present` adds to a next state. -/
theorem present_next {t : Pair} {before : List Event} {r : Answer} {u : State} (h : present t before r = .next u) :
    ∃ s', r = .next s' ∧ u = setRecord (some (recordOf t (s'.trace.drop before.length))) s' := by
  cases r with
  | next s => exact ⟨s, rfl, by simpa [present] using h.symm⟩
  | fault f => cases h
  | refused x => cases h

end Sys2Proof.Machine
end

