-- ==== Sys2Proof/Laws/PerInstr.lean ====
section
/-! SUPPORT. The family EncodedInRange: the word or pair of an encoded well-formed instruction fits the port
(30_encoding.md R45, R48). -/

namespace Sys2Proof

/-- An input the block's formats can carry: a format P word of `2*DUR_W + 1` bits, or a format E code of 0 to 4 with a
pair that fits. -/
abbrev InputInRange (durW : Nat) (t : Input) : Prop :=
  match t with
  | .port g       => g.word < 2 ^ (2 * durW + 1)
  | .event code p => code ≤ 4 ∧ (durationFits durW p.pulse && spaceFits durW p.space) = true

theorem wordOfPair_some_lt {durW p s : Nat} (hp : p < 2 ^ durW) (hs : s < 2 ^ durW) :
    wordOfPair durW { pulse := p, space := some s } < 2 ^ (2 * durW + 1) := by
  have h1 : s * 2 ^ durW + p < 2 ^ durW * 2 ^ durW := by
    calc s * 2 ^ durW + p < s * 2 ^ durW + 2 ^ durW := by omega
      _ = (s + 1) * 2 ^ durW := by ring
      _ ≤ 2 ^ durW * 2 ^ durW := Nat.mul_le_mul_right _ hs
  have h2 : 2 ^ (2 * durW) = 2 ^ durW * 2 ^ durW := by rw [two_mul, pow_add]
  simp only [wordOfPair, pow_succ, h2]
  omega

theorem wordOfPair_none_lt {durW p : Nat} (hp : p < 2 ^ durW) :
    wordOfPair durW { pulse := p, space := none } < 2 ^ (2 * durW + 1) :=
  lt_of_lt_of_le hp (Nat.pow_le_pow_right (by omega) (by omega))

/-- Zero fits every port. -/
theorem durationFits_zero (durW : Nat) : durationFits durW 0 = true := by
  simp [durationFits]

end Sys2Proof

namespace Sys2Proof.Laws.EncodedInRange

/-- What the family says of an instruction. -/
def Statement (i : Instr) : Prop := ∀ durW, i.wellFormed durW = true → InputInRange durW (encode durW i)

theorem pairS (p s : Nat) : Statement (.pairS p s) := by
  intro durW h
  simp only [Instr.wellFormed, durationFits, Bool.and_eq_true, decide_eq_true_eq] at h
  exact wordOfPair_some_lt h.1 h.2

theorem pairT (p : Nat) : Statement (.pairT p) := by
  intro durW h
  simp only [Instr.wellFormed, durationFits, decide_eq_true_eq] at h
  exact wordOfPair_none_lt h

theorem unknown (p : Nat) (s : Option Nat) : Statement (.unknown p s) :=
  fun _ h => ⟨by simp [codeOfClass], h⟩

theorem header : Statement .header :=
  fun durW _ => ⟨by simp [codeOfClass], by simp [durationFits_zero, spaceFits]⟩

theorem bit0 : Statement .bit0 :=
  fun durW _ => ⟨by simp [codeOfClass], by simp [durationFits_zero, spaceFits]⟩

theorem bit1 : Statement .bit1 :=
  fun durW _ => ⟨by simp [codeOfClass], by simp [durationFits_zero, spaceFits]⟩

theorem gap (s : Option Nat) : Statement (.gap s) :=
  fun durW h => ⟨by simp [codeOfClass], by
    simp only [Instr.wellFormed] at h
    simp [durationFits_zero, h]⟩

end Sys2Proof.Laws.EncodedInRange
end

