-- ==== Sys2Proof/Laws/Run.lean ====
section
/-! SUPPORT. Unfolding lemmas of the runs: the host's `Core.run` in terms of `step`, and the two folds of Machine/Run.lean
one element at a time. -/

namespace Sys2Proof.Machine

theorem core_run_zero (s : State) : Host.Core.run Sys2Proof.core 0 s = .next s := rfl

/-- One more step of any machine whose step answers a next state. -/
theorem run_succ_next (M : Host.Core) (n : Nat) (s t : M.State) (h : M.step s = .next t) :
    M.run (n + 1) s = M.run n t := by
  rw [Host.Core.run.eq_2, h]

theorem run_succ_fault (M : Host.Core) (n : Nat) (s : M.State) (f : M.Fault) (h : M.step s = .fault f) :
    M.run (n + 1) s = .fault f := by
  rw [Host.Core.run.eq_2, h]

theorem run_succ_refused (M : Host.Core) (n : Nat) (s : M.State) (r : M.Refusal) (h : M.step s = .refused r) :
    M.run (n + 1) s = .refused r := by
  rw [Host.Core.run.eq_2, h]

theorem core_run_next {n : Nat} {s t : State} (h : step s = .next t) :
    Host.Core.run Sys2Proof.core (n + 1) s = Host.Core.run Sys2Proof.core n t :=
  run_succ_next Sys2Proof.core n s t h

theorem core_run_fault {n : Nat} {s : State} {f : Fault} (h : step s = .fault f) :
    Host.Core.run Sys2Proof.core (n + 1) s = .fault f :=
  run_succ_fault Sys2Proof.core n s f h

theorem core_run_refused {n : Nat} {s : State} {r : Refusal} (h : step s = .refused r) :
    Host.Core.run Sys2Proof.core (n + 1) s = .refused r :=
  run_succ_refused Sys2Proof.core n s r h

theorem runInputs_cons (t : Input) (ts : List Input) (s : State) : runInputs (t :: ts) s =
    match performInput t s with
    | .next u    => runInputs ts u
    | .fault f   => .fault f
    | .refused r => .refused r := rfl

theorem runEvents_cons (e : Classification × Pair) (es : List (Classification × Pair)) (s : State) :
    runEvents (e :: es) s =
    match accStep e.1 e.2 s with
    | .next u    => runEvents es u
    | .fault f   => .fault f
    | .refused r => .refused r := rfl

/-- A run of events over two lists is the second run after the first. -/
theorem runEvents_append (es fs : List (Classification × Pair)) (s u : State) (h : runEvents es s = .next u) :
    runEvents (es ++ fs) s = runEvents fs u := by
  induction es generalizing s with
  | nil => cases h; rfl
  | cons e es ih =>
    rw [List.cons_append, runEvents_cons]
    rw [runEvents_cons] at h
    cases ha : accStep e.1 e.2 s with
    | next v => rw [ha] at h; exact ih v h
    | fault f => rw [ha] at h; cases h
    | refused r => rw [ha] at h; cases h

end Sys2Proof.Machine
end

