-- ==== Sys2Proof/Tests/Slice0.lean ====
section
/-! SUPPORT. Tests of one step each, with expected results from the vectors of spec/95_test_vectors.md, and a witness for
the hypotheses of every statement that has some. -/

namespace Sys2Proof.Tests

open Sys2Proof Sys2Proof.Machine

/-- A state written `(bit_count, bit_buffer, message, ovf)` as in 95_test_vectors.md, with a depth and inputs. -/
def sample (depth : Option Nat) (count : BitVec 3) (buffer : Byte) (bytes : List Byte) (ovf : Bool)
    (ts : List Input) : State :=
  { State.resetWith (defaultConfig depth) with
    bitCount := count, bitBuffer := buffer, mem := (List.range bytes.length).zip bytes, msgLen := bytes.length,
    ovf := ovf, input := ts }

/-- The next state of an answer satisfies a test. -/
def nextIs (a : Answer) (p : State → Bool) : Bool :=
  match a with
  | .next s    => p s
  | .fault _   => false
  | .refused _ => false

/-- An answer refuses for a reason. -/
def refuses (a : Answer) (r : Refusal) : Bool :=
  match a with
  | .next _    => false
  | .fault _   => false
  | .refused x => decide (x = r)

/-- The columns of 95_test_vectors.md: `(bit_count, bit_buffer, message, ovf)` and the events emitted. -/
def shows (count : BitVec 3) (buffer : Byte) (bytes : List Byte) (ovf : Bool) (events : List Event) (s : State) : Bool :=
  decide (s.bitCount = count ∧ s.bitBuffer = buffer ∧ message s = bytes ∧ s.msgLen = bytes.length ∧ s.ovf = ovf
    ∧ s.trace = events)

theorem next_of_nextIs {a : Answer} (h : nextIs a (fun _ => true) = true) : ∃ t, a = .next t := by
  cases a with
  | next s => exact ⟨s, rfl⟩
  | fault f => cases h
  | refused r => cases h

/-! ### Well-formedness: each check refuses an ill-formed term -/

theorem test_wellFormed_accepts : (Instr.pairS 4294967295 4294967295).wellFormed 32 = true
    ∧ (Instr.gap none).wellFormed 32 = true := by decide
theorem test_pairS_pulse_too_wide : (Instr.pairS 4294967296 0).wellFormed 32 = false := by decide
theorem test_pairS_space_too_wide : (Instr.pairS 0 4294967296).wellFormed 32 = false := by decide
theorem test_pairT_pulse_too_wide : (Instr.pairT 16384).wellFormed 14 = false := by decide
theorem test_unknown_pulse_too_wide : (Instr.unknown 4294967296 none).wellFormed 32 = false := by decide
theorem test_unknown_space_too_wide : (Instr.unknown 0 (some 4294967296)).wellFormed 32 = false := by decide
theorem test_gap_space_too_wide : (Instr.gap (some 4294967296)).wellFormed 32 = false := by decide

/-! ### Decoding: words written out from 30_encoding.md R45, R48 -/

/-- V1: `sv = 1`, space 0x0000069A, pulse 0x00000230. -/
theorem test_decode_pairS : decodeTableWord 72 0x10000069A00000230 = some (.pairS 560 1690) := by decide
/-- V4 and the ignored field of section 2.1. -/
theorem test_decode_pairT : decodeTableWord 72 0x00000000000000230 = some (.pairT 560)
    ∧ decodeTableWord 72 0x00000069A00000230 = some (.pairT 560) := by decide
/-- The five codes of R48. -/
theorem test_decode_events : decodeTableWord 8 0b000 = some (.unknown 0 none) ∧ decodeTableWord 8 0b001 = some .header
    ∧ decodeTableWord 8 0b010 = some .bit0 ∧ decodeTableWord 8 0b011 = some .bit1
    ∧ decodeTableWord 8 0b100 = some (.gap none) := by decide
/-- The reserved codes of R51, and a number that is no word. -/
theorem test_decode_refuses : decodeTableWord 8 5 = none ∧ decodeTableWord 8 6 = none ∧ decodeTableWord 8 7 = none
    ∧ decodeTableWord 72 0x20000000000000000 = none := by decide
/-- The encoder writes V1 and V4 back. -/
theorem test_encode_words : encode 32 (.pairS 560 1690) = wordInput 0x10000069A00000230
    ∧ encode 32 (.pairT 560) = wordInput 0x00000000000000230 := by decide

/-! ### The classifier: V4 to V43, both sides of every bound -/

theorem test_classify_bit_bounds :
    [(400, 560), (401, 560), (749, 560), (750, 560), (560, 350), (560, 351), (560, 749), (560, 750), (560, 1500),
      (560, 1501), (560, 1819), (560, 1820), (560, 10000), (560, 10001)].map
        (fun x => classify (defaultConfig none) x.1 (some x.2))
    = [.unknown, .bit0, .bit0, .unknown, .unknown, .bit0, .bit0, .unknown, .unknown, .bit1, .bit1, .unknown, .unknown,
      .gap] := by decide
theorem test_classify_header_bounds :
    [(4400, 4500), (4401, 4401), (4799, 4799), (4800, 4500), (4500, 4400), (4500, 4800), (4500, 10001), (560, 4500)].map
        (fun x => classify (defaultConfig none) x.1 (some x.2))
    = [.unknown, .header, .header, .unknown, .unknown, .unknown, .unknown, .unknown] := by decide
theorem test_classify_absent :
    [400, 401, 749, 750, 4500, 0].map (fun p => classify (defaultConfig none) p none)
    = [.unknown, .gap, .gap, .unknown, .unknown, .unknown] := by decide

/-! ### The instructions -/

/-- V5 on the state of M3: a long space ends the message. -/
theorem test_pairS_gap : nextIs (exec (.pairS 560 10001) (sample none 5 0b10110 [0xA5] false []))
    (shows 0 0 [] false [.gapSeen (some 10001), .discardedBits 5, .message [0xA5] false]) = true := by decide
/-- P3 step 12: the last bit of 0xC5. -/
theorem test_pairS_completes_byte : nextIs (exec (.pairS 401 1501) (sample none 7 0b1100010 [] false []))
    (shows 0 0 [0xC5] false [.bitDecoded 1, .byteAssembled 0xC5]) = true := by decide
/-- P1 step 10. -/
theorem test_pairT_gap : nextIs (exec (.pairT 560) (sample none 0 0 [0xB2] false []))
    (shows 0 0 [] false [.gapSeen none, .message [0xB2] false]) = true := by decide
/-- M10, P3 step 6: a timed-out header-width pulse ends nothing. -/
theorem test_pairT_header_width : nextIs (exec (.pairT 4500) (sample none 4 0b1010 [0x3C] false []))
    (shows 4 0b1010 [0x3C] false [.unknownPair 4500 none]) = true := by decide
/-- M9. -/
theorem test_unknown : nextIs (exec (.unknown 1000 (some 1000)) (sample none 4 0b1010 [0x3C] false []))
    (shows 4 0b1010 [0x3C] false [.unknownPair 1000 (some 1000)]) = true := by decide
/-- M8. -/
theorem test_header : nextIs (exec .header (sample none 4 0b1010 [0x3C] false []))
    (shows 4 0b1010 [0x3C] false [.headerSeen]) = true := by decide
/-- A3. -/
theorem test_bit0_shifts : nextIs (exec .bit0 (sample none 3 0b101 [] false []))
    (shows 4 0b1010 [] false [.bitDecoded 0]) = true := by decide
/-- A4. -/
theorem test_bit0_completes : nextIs (exec .bit0 (sample none 7 0b1011001 [] false []))
    (shows 0 0 [0xB2] false [.bitDecoded 0, .byteAssembled 0xB2]) = true := by decide
/-- A11: overflow of a two-byte buffer; the fault of the run is recorded. -/
theorem test_bit1_overflow : nextIs (exec .bit1 (sample (some 2) 7 0b0110011 [0x11, 0x22] false []))
    (fun s => shows 0 0 [0x11, 0x22] true [.bitDecoded 1, .overflow 0x67] s
      && decide (s.faultRecord = some .messageOverflow)) = true := by decide
/-- A12: the same with one more cell. -/
theorem test_bit1_room : nextIs (exec .bit1 (sample (some 3) 7 0b0110011 [0x11, 0x22] false []))
    (shows 0 0 [0x11, 0x22, 0x67] false [.bitDecoded 1, .byteAssembled 0x67]) = true := by decide
/-- M3. -/
theorem test_gap_partial : nextIs (exec (.gap none) (sample none 5 0b10110 [0xA5] false []))
    (shows 0 0 [] false [.gapSeen none, .discardedBits 5, .message [0xA5] false]) = true := by decide
/-- M7: `trunc = ovf`, and `ovf` is cleared. -/
theorem test_gap_trunc : nextIs (exec (.gap (some 45000)) (sample (some 2) 0 0 [0x11, 0x22] true []))
    (shows 0 0 [] false [.gapSeen (some 45000), .message [0x11, 0x22] true]) = true := by decide

/-! ### The step -/

/-- P4 step 26's record: GAP on a truncated message with one dangling bit. -/
theorem test_step_record : nextIs (step (sample (some 2) 1 0b1 [0x11, 0x22] true [wordInput 0x00000000000000230]))
    (fun s => decide (s.record = some
      { oCls := 4, oPulse := 560, oSpace := none, oByteValid := false, oByte := 0, oOvf := false, oDisc := 1,
        oMsgValid := true, oMsgLen := 2, oMsgData := [0x11, 0x22], oMsgTrunc := true } ∧ s.input = [])) = true := by decide
/-- M11: reset, with a word presented in the same step (60_exceptions.md R113 d). -/
theorem test_step_reset : nextIs (step (sample (some 2) 4 0b1010 [0x3C] true
      [.port { rst := true, iValid := true, word := 0x00000000000000230 }])) (shows 0 0 [] false []) = true := by decide
/-- M12. -/
theorem test_step_idle : nextIs (step (sample none 4 0b1010 [0x3C] false
      [.port { rst := false, iValid := false, word := 0 }])) (shows 4 0b1010 [0x3C] false []) = true := by decide
/-- 93 U13: `bit_count = 0` with `bit_buffer != 0`. -/
theorem test_step_incoherent : refuses (step (sample none 0 1 [] false [wordInput 0])) .incoherentState = true := by decide
/-- A table word is the first instruction after reset. -/
theorem test_fetch_word : nextIs (step (State.reset.withFetchWord 72 0x10000069A00000230))
      (shows 1 1 [] false [.bitDecoded 1]) = true
    ∧ nextIs (step (State.reset.withFetchWord 8 0b100)) (shows 0 0 [] false [.gapSeen none, .message [] false]) = true := by
  decide
/-- Refused at construction: a constant above `2^14 - 2` (93 U17), `DUR_W` below 14 and `MSG_DEPTH` 0 (00_scope.md R5, log
entry 10). -/
theorem test_construct_refuses :
    refuses (construct { defaultConfig none with durW := 14, gapSpaceMin := 16383 }) .badConfig = true
    ∧ refuses (construct { defaultConfig none with durW := 13 }) .badConfig = true
    ∧ refuses (construct (defaultConfig (some 0))) .badConfig = true := by decide

/-! ### Feeder, rendering, pseudo-operations -/

/-- P1's last lines: a pulse, then a timeout, delivers V4. -/
theorem test_feeder_timeout : feed 32 [.pulseLine 560, .timeout, .timeout] feederStart
    = .next feederStart [wordInput 0x00000000000000230] := by decide
/-- 95 section 2.1, clamping: `space 5000000000` after `pulse 560` is V9. -/
theorem test_feeder_clamps : feed 32 [.pulseLine 560, .spaceLine 5000000000] feederStart
    = .next feederStart [wordInput 0x1FFFFFFFF00000230] := by decide
/-- P2's lines `pulze 560` and `space abc` are malformed; `PULSE 560` is another spelling (91 N12). -/
theorem test_lexLine :
    (lexLine ['p', 'u', 'l', 's', 'e', ' ', '5', '6', '0']).toOption = some (.pulseLine 560)
    ∧ (lexLine ['p', 'u', 'l', 'z', 'e', ' ', '5', '6', '0']).toOption = some .malformedLine
    ∧ (lexLine ['s', 'p', 'a', 'c', 'e', ' ', 'a', 'b', 'c']).toOption = some .malformedLine
    ∧ (lexLine ['P', 'U', 'L', 'S', 'E', ' ', '5', '6', '0']).toOption = none
    ∧ (lexLine ['p', 'u', 'l', 's', 'e', ' ', ' ', '5', '6', '0']).toOption = none := by decide
/-- 95 section 2.4. -/
theorem test_render : renderMessage [0xDE, 0xAD, 0xBE, 0xEF] = ['d', 'e', 'a', 'd', 'b', 'e', 'e', 'f']
    ∧ renderMessage [0x0F, 0xF0] = ['0', 'f', 'f', '0'] ∧ renderMessage [] = [] := by decide
/-- S6: the bits 1,0,1,1,0,0,1,0 are 0xB2. -/
theorem test_packing : wholeBytes [1, 0, 1, 1, 0, 0, 1, 0] = [0xB2] ∧ byteBits 0xB2 = [1, 0, 1, 1, 0, 0, 1, 0] := by decide

/-! ### Witnesses: a concrete case that meets the hypotheses of each statement, clause by clause -/

theorem witness_DecodeOfEncodeIsIdentity : (Instr.pairS 4294967295 0).wellFormed 32 = true
    ∧ (Instr.pairT 0).wellFormed 32 = true ∧ (Instr.unknown 4294967295 (some 4294967295)).wellFormed 32 = true
    ∧ (Instr.gap (some 0)).wellFormed 32 = true := by decide
theorem witness_WordOperandsAssemble : (0x1FFFFFFFFFFFFFFFF : Nat) < 2 ^ (2 * 32 + 1)
    ∧ (0x1FFFFFFFFFFFFFFFF : Nat) / 2 ^ (2 * 32) = 1 ∧ (0x0FFFFFFFFFFFFFFFF : Nat) / 2 ^ (2 * 32) ≠ 1
    ∧ durationFits 32 4294967295 = true ∧ spaceFits 32 none = true ∧ spaceFits 32 (some 4294967295) = true := by decide
theorem witness_WordDecoderInjective : (0x0FFFFFFFF00000230 : Nat) < 2 ^ (2 * 32 + 1)
    ∧ (0x00000000000000230 : Nat) < 2 ^ (2 * 32 + 1)
    ∧ (decodeWord 32 0x0FFFFFFFF00000230).toOption = (decodeWord 32 0x00000000000000230).toOption := by decide
theorem witness_ReservedAndIgnoredEncodings : (4294967295 : Nat) < 2 ^ 32
    ∧ (sample none 0 0 [] false [.event 7 { pulse := 0, space := none }]).input
      = .event 7 { pulse := 0, space := none } :: [] := by decide
theorem witness_ClassifyFirstMatchWins : ∃ line1 line2 line3 line4 : Prop,
    (line1 ↔ (400 < 560 ∧ 560 < 750) ∧ (some 10001 = none ∨ ∃ v, some 10001 = some v ∧ 10000 < v))
    ∧ (line2 ↔ (4400 < 560 ∧ 560 < 4800) ∧ ∃ v, some 10001 = some v ∧ 4400 < v ∧ v < 4800)
    ∧ (line3 ↔ (400 < 560 ∧ 560 < 750) ∧ ∃ v, some 10001 = some v ∧ 1500 < v ∧ v < 1820)
    ∧ (line4 ↔ (400 < 560 ∧ 560 < 750) ∧ ∃ v, some 10001 = some v ∧ 350 < v ∧ v < 750) ∧ line1 :=
  ⟨_, _, _, _, Iff.rfl, Iff.rfl, Iff.rfl, Iff.rfl, by decide, .inr ⟨10001, rfl, by decide⟩⟩
theorem witness_WellFormedProfileLinesExclusive : profileWellFormed (defaultConfig none) := by decide
theorem witness_ClampingKeepsClassification : constantsFit (defaultConfig none) ∧ (2 ^ 32 - 1 : Int) < 4294967296
    ∧ (-1 : Int) < 0 ∧ (0 : Int) ≤ 4294967295 ∧ (4294967295 : Int) ≤ 2 ^ 32 - 1 := by decide
theorem witness_BitShiftsIntoBuffer : Coherent (sample none 6 0b111111 [] false [])
    ∧ (sample none 6 0b111111 [] false []).bitCount.toNat ≤ 6 := by decide
theorem witness_EighthBitStoresByte : Coherent (sample (some 3) 7 0b1111111 [0x11, 0x22] false [])
    ∧ (sample (some 3) 7 0b1111111 [0x11, 0x22] false []).bitCount.toNat = 7
    ∧ ∀ d ∈ (sample (some 3) 7 0b1111111 [0x11, 0x22] false []).cfg.msgDepth,
      (sample (some 3) 7 0b1111111 [0x11, 0x22] false []).msgLen < d := by decide
theorem witness_EighthBitOnFullBufferDropsByte : Coherent (sample (some 2) 7 0b1111111 [0x11, 0x22] true [])
    ∧ (sample (some 2) 7 0b1111111 [0x11, 0x22] true []).bitCount.toNat = 7
    ∧ (sample (some 2) 7 0b1111111 [0x11, 0x22] true []).cfg.msgDepth = some 2
    ∧ (sample (some 2) 7 0b1111111 [0x11, 0x22] true []).msgLen = 2 := by decide
/-- The one premise of the GAP, HEADER, UNKNOWN and SecondGapIsEmpty statements. -/
theorem witness_GapEmitsMessageAndClears : Coherent (sample (some 2) 7 0b1111111 [0x11, 0x22] true [])
    ∧ Coherent (sample none 0 0 [] false []) := by decide
theorem witness_HeaderOnlyReports : Coherent (sample none 4 0b1010 [0x3C] false []) := by decide
theorem witness_UnknownOnlyReports : Coherent (sample (some 1) 7 0 [0x3C] true []) := by decide
theorem witness_SecondGapIsEmpty : Coherent (sample none 5 0b10110 [0xA5] false []) := by decide
/-- The bounds and ranges of the corner cases of R63: both ends of each clause. -/
theorem witness_PairWithSpacePerformsItsEvent : Coherent (sample none 7 0b1100010 [] false [])
    ∧ (400 = defaultProfile.bitPulse.min ∧ 750 = defaultProfile.bitPulse.max)
    ∧ (4400 = defaultProfile.headerPulse.min ∧ 4800 = defaultProfile.headerSpace.max)
    ∧ (1500 = defaultProfile.oneSpace.min ∧ 1820 = defaultProfile.oneSpace.max)
    ∧ (350 = defaultProfile.zeroSpace.min ∧ 750 = defaultProfile.zeroSpace.max)
    ∧ (400 < 401 ∧ 749 < 750) ∧ (4400 < 4401 ∧ 4799 < 4800 ∧ 10000 < 10001)
    ∧ (350 ≤ 350 ∧ 750 ≤ 750 ∧ 1500 ≤ 1500 ∧ 1820 ≤ 1820 ∧ 10000 ≤ 10000)
    ∧ (4294967295 < 2 ^ 32 ∧ 0 < 2 ^ 32) := by decide
theorem witness_TimedOutPairIsGapOrUnknown : Coherent (sample none 4 0b1010 [0x3C] false [])
    ∧ (defaultProfile.bitPulse.min < 401 ∧ 749 < defaultProfile.bitPulse.max)
    ∧ ¬ (defaultProfile.bitPulse.min < 400 ∧ 400 < defaultProfile.bitPulse.max)
    ∧ ¬ (defaultProfile.bitPulse.min < 750 ∧ 750 < defaultProfile.bitPulse.max)
    ∧ (560 < 2 ^ 32 ∧ 4294967295 < 2 ^ 32) := by decide
theorem witness_TransitionTableIsTheMachine : Coherent (sample (some 2) 7 0b1111111 [0x11, 0x22] true [])
    ∧ ({ rst := true, iValid := true, word := 0 } : Port).rst = true
    ∧ (sample none 4 0b1010 [] false [.port { rst := true, iValid := true, word := 0 }]).input
      = .port { rst := true, iValid := true, word := 0 } :: [] := by decide
/-- Also of OutputRecordFields: the same premises, one word for each classification, at a byte boundary and off it. -/
theorem witness_StepEventOrder : Coherent (sample none 7 0b1100010 [] false [wordInput 0x10000069A00000230])
    ∧ presentsWord 32 (wordInput 0x10000069A00000230) = true
    ∧ inputClass (defaultConfig none) (wordInput 0x10000069A00000230) = some .bit1
    ∧ inputClass (defaultConfig none) (wordInput 0x10000023000000230) = some .bit0
    ∧ inputClass (defaultConfig none) (wordInput 0x10000119400001194) = some .header
    ∧ inputClass (defaultConfig none) (wordInput 0x00000000000000230) = some .gap
    ∧ inputClass (defaultConfig none) (wordInput 0x1FFFFFFFFFFFFFFFF) = some .unknown := by decide
theorem witness_OutputRecordFields : Coherent (sample (some 1) 7 0b1100010 [0x3C] false [wordInput 0x10000023000000230])
    ∧ presentsWord 32 (wordInput 0x10000023000000230) = true
    ∧ inputClass (defaultConfig (some 1)) (wordInput 0x10000023000000230) = some .bit0
    ∧ hasRoom (sample (some 1) 7 0b1100010 [0x3C] false [wordInput 0x10000023000000230]) = false := by decide
theorem witness_StoredCountAdvancesModEight : Coherent (sample none 7 0b1100010 [] false [])
    ∧ Coherent (sample none 6 0 [] false []) ∧ (Instr.bit0 = .bit0 ∨ Instr.bit0 = .bit1) := by decide
theorem witness_ReportingEventsFrame : (Instr.header = .header ∨ ∃ p sp, Instr.header = .unknown p sp)
    ∧ ∃ t, exec .header (sample none 4 0b1010 [0x3C] false []) = .next t :=
  ⟨.inl rfl, next_of_nextIs (by decide)⟩
/-- A bit that stores, a bit that overflows and a bit that does neither. -/
theorem witness_BitEventsFrame : (∃ t, exec .bit0 (sample none 7 0b1011001 [0x3C] false []) = .next t)
    ∧ (∃ t, exec .bit1 (sample (some 1) 7 0b1011001 [0x3C] false []) = .next t)
    ∧ (∃ t, exec .bit1 (sample (some 1) 6 0b101100 [0x3C] false []) = .next t)
    ∧ hasRoom (sample (some 1) 7 0b1011001 [0x3C] false []) = false
    ∧ hasRoom (sample none 7 0b1011001 [0x3C] false []) = true :=
  ⟨next_of_nextIs (by decide), next_of_nextIs (by decide), next_of_nextIs (by decide), by decide, by decide⟩
theorem witness_GapFrame : ∃ t, exec (.gap (some 45000)) (sample (some 2) 5 0b10110 [0x11, 0x22] true []) = .next t :=
  next_of_nextIs (by decide)
theorem witness_PairTransactionsFrame : (∃ t, exec (.pairS 560 560) (sample none 7 0b1011001 [0x3C] false []) = .next t)
    ∧ (∃ t, exec (.pairT 749) (sample none 3 0b101 [0x3C] false []) = .next t)
    ∧ (∃ t, exec (.pairS 560 1690) (sample (some 1) 7 0b1011001 [0x3C] false []) = .next t)
    ∧ classify (defaultConfig none) 560 (some 560) = .bit0 ∧ classify (defaultConfig none) 749 none = .gap
    ∧ classify (defaultConfig (some 1)) 560 (some 1690) = .bit1 :=
  ⟨next_of_nextIs (by decide), next_of_nextIs (by decide), next_of_nextIs (by decide), by decide, by decide, by decide⟩
theorem witness_StepRunsDecodedInstruction :
    (sample none 4 0b1010 [0x3C] false [wordInput 0x10000119400001194]).input = wordInput 0x10000119400001194 :: []
    ∧ (decodeInput 32 (wordInput 0x10000119400001194)).toOption = some (.pairS 4500 4500)
    ∧ (∃ u, exec (.pairS 4500 4500) (sample none 4 0b1010 [0x3C] false []) = .next u)
    ∧ refuses (exec (.pairS 4500 4500) (sample none 0 1 [] false [])) .incoherentState = true :=
  ⟨rfl, by decide, next_of_nextIs (by decide), by decide⟩
theorem witness_IdleStepAndAlwaysReady :
    (sample none 0 1 [] false [.port { rst := false, iValid := false, word := 0 }]).input
      = .port { rst := false, iValid := false, word := 0 } :: []
    ∧ Coherent (sample none 7 0b1111111 [] false [wordInput 0x1FFFFFFFFFFFFFFFF])
    ∧ (0x1FFFFFFFFFFFFFFFF : Nat) < 2 ^ (2 * (sample none 7 0b1111111 [] false []).cfg.durW + 1) := by decide
theorem witness_EndOfInputEmitsNothing : (sample none 1 0b1 [0x5A] false []).input = [] := by decide
theorem witness_ResetStepRestoresInitialState :
    (sample none 0 1 [0x3C] true [.port { rst := true, iValid := true, word := 0x00000000000000230 }]).input
      = .port { rst := true, iValid := true, word := 0x00000000000000230 } :: [] := by decide
theorem witness_InitialStateAtLaunchAndAfterGap : Coherent (sample none 5 0b10110 [0xA5] false []) := by decide
theorem witness_EveryStepCompletes : Coherent (sample none 7 0b1111111 [] false [wordInput 0x1FFFFFFFFFFFFFFFF])
    ∧ (∀ g ts, (sample none 7 0b1111111 [] false [wordInput 0x1FFFFFFFFFFFFFFFF]).input = .port g :: ts →
      g.word < 2 ^ (2 * 32 + 1))
    ∧ (∀ c p ts, (sample none 7 0b1111111 [] false [wordInput 0x1FFFFFFFFFFFFFFFF]).input ≠ .event c p :: ts) := by
  refine ⟨by decide, fun g ts h => ?_, fun c p ts h => ?_⟩
  · have hg : g = { rst := false, iValid := true, word := 0x1FFFFFFFFFFFFFFFF } := by
      injection h with h _; injection h with h; exact h.symm
    rw [hg]; decide
  · injection h with h _; cases h
theorem witness_IncoherentStatesRefused : ¬ Coherent (sample none 0 1 [] false []) := by decide
theorem witness_PortStepRefusedExactlyWhen :
    refuses (step (sample none 0 0 [] false [wordInput 0x20000000000000000])) .wordTooWide = true
    ∧ refuses (step (sample none 0 1 [] false [wordInput 0])) .incoherentState = true := by decide
theorem witness_ClassificationIgnoresState : (sample none 0 0 [] false []).cfg = (sample none 4 0b1010 [0x3C] false []).cfg
    ∧ nextIs (step (sample none 0 0 [] false [wordInput 0x230])) (fun s => s.record.isSome) = true
    ∧ nextIs (step (sample none 4 0b1010 [0x3C] false [wordInput 0x230])) (fun s => s.record.isSome) = true := by decide
/-- Also of the statements whose only premise is a step that answers a next state. -/
theorem witness_OutputIsNeverReadBack :
    ∃ u, step (sample (some 1) 7 0b1011001 [0x3C] false [wordInput 0x10000069A00000230]) = .next u :=
  next_of_nextIs (by decide)
theorem witness_OvfShowsOnlyAsTrunc :
    (∃ t, exec (.gap none) { sample (some 2) 5 0b10110 [0xA5] false [] with ovf := true } = .next t)
    ∧ (∃ t, exec (.gap none) { sample (some 2) 5 0b10110 [0xA5] false [] with ovf := false } = .next t) :=
  ⟨next_of_nextIs (by decide), next_of_nextIs (by decide)⟩
theorem witness_StepKeepsCoherent : Coherent (sample (some 1) 7 0b1011001 [0x3C] false [wordInput 0x10000069A00000230])
    ∧ ∃ u, step (sample (some 1) 7 0b1011001 [0x3C] false [wordInput 0x10000069A00000230]) = .next u :=
  ⟨by decide, witness_OutputIsNeverReadBack⟩
theorem witness_StepKeepsMemoryCanonical :
    Memory.wf (sample none 7 0b1011001 [0x3C] false [wordInput 0x10000069A00000230]).mem
    ∧ ∃ u, step (sample none 7 0b1011001 [0x3C] false [wordInput 0x10000069A00000230]) = .next u :=
  ⟨by decide, next_of_nextIs (by decide)⟩
theorem witness_StepKeepsConfiguration :
    ∃ u, step (sample none 0 1 [] false [.port { rst := true, iValid := false, word := 0 }]) = .next u :=
  next_of_nextIs (by decide)
theorem witness_OnlyBitsGapAndResetWriteState :
    nextIs (step (sample none 3 0b101 [] false [wordInput 0x10000069A00000230]))
      (fun u => !decide (sameItems (sample none 3 0b101 [] false [wordInput 0x10000069A00000230]) u)) = true := by decide
theorem witness_FaultRecordMatchesOverflowEvents :
    FaultRecordTrue (sample (some 1) 7 0b1011001 [0x3C] false [wordInput 0x10000069A00000230])
    ∧ ∃ u, step (sample (some 1) 7 0b1011001 [0x3C] false [wordInput 0x10000069A00000230]) = .next u :=
  ⟨by decide, witness_OutputIsNeverReadBack⟩
theorem witness_RecordedFaultStays :
    (recordFault .messageOverflow (sample (some 1) 0 0 [0x3C] true [wordInput 0x230])).faultRecord = some .messageOverflow
    ∧ ∃ u, step (recordFault .messageOverflow (sample (some 1) 0 0 [0x3C] true [wordInput 0x230])) = .next u :=
  ⟨rfl, next_of_nextIs (by decide)⟩
theorem witness_UnboundedBufferNeverOverflows :
    Coherent (sample none 7 0b1011001 [0x3C] false [wordInput 0x10000069A00000230])
    ∧ (sample none 7 0b1011001 [0x3C] false [wordInput 0x10000069A00000230]).cfg.msgDepth = none
    ∧ (∃ u, step (sample none 7 0b1011001 [0x3C] false [wordInput 0x10000069A00000230]) = .next u)
    ∧ noOverflow (sample none 7 0b1011001 [0x3C] false [wordInput 0x10000069A00000230]).trace = true :=
  ⟨by decide, rfl, next_of_nextIs (by decide), by decide⟩
theorem witness_MsgLenFitsLenW : Coherent (sample (some 2) 0 0 [0x11, 0x22] false [])
    ∧ (sample (some 2) 0 0 [0x11, 0x22] false []).cfg.msgDepth = some 2 ∧ lenWidth (defaultConfig (some 2)) = some 2
    ∧ lenWidth (defaultConfig (some 4)) = some 3 := by decide
theorem witness_ConstructionChecksParameters : configFits (defaultConfig (some 1)) ∧ ¬ configFits (defaultConfig (some 0))
    ∧ ¬ configFits { defaultConfig none with durW := 13 } := by decide
theorem witness_BitEventsPackIntoBytes : Coherent (sample (some 2) 0 0 [0x11] false [])
    ∧ (sample (some 2) 0 0 [0x11] false []).bitCount = 0
    ∧ ∀ d ∈ (sample (some 2) 0 0 [0x11] false []).cfg.msgDepth,
      (sample (some 2) 0 0 [0x11] false []).msgLen + (byteBits 0xB2 ++ [1]).length / 8 ≤ d := by decide
theorem witness_HeadersAndNoiseChangeNothing :
    (∃ t, runEvents [(.header, { pulse := 4500, space := some 4500 }), (.bit1, { pulse := 0, space := none })]
      (sample none 2 0b10 [] false []) = .next t)
    ∧ (∃ u, runEvents ([(Classification.header, { pulse := 4500, space := some 4500 }),
        (.bit1, { pulse := 0, space := none })].filter (fun e => e.1 != .header && e.1 != .unknown))
      (sample none 2 0b10 [] false []) = .next u) :=
  ⟨next_of_nextIs (by decide), next_of_nextIs (by decide)⟩
theorem witness_MessageRoundTrip : Coherent (sample (some 1) 0 0 [] false [])
    ∧ (sample (some 1) 0 0 [] false []).bitCount = 0 ∧ (sample (some 1) 0 0 [] false []).msgLen = 0
    ∧ (sample (some 1) 0 0 [] false []).ovf = false
    ∧ (∀ d ∈ (sample (some 1) 0 0 [] false []).cfg.msgDepth, [(0xB2 : Byte)].length ≤ d) := by decide
theorem witness_MessagesCountGaps :
    ∃ t, runInputs [wordInput 0x230, wordInput 0x10000069A00000230] (sample none 0 0 [] false []) = .next t :=
  next_of_nextIs (by decide)
theorem witness_FirstTransactionMayBeAnyWord : (0x10000069A00000230 : Nat) < 2 ^ (2 * (defaultConfig none).durW + 1)
    ∧ inputClass (defaultConfig none) (wordInput 0x10000069A00000230) = some .bit1
    ∧ inputClass (defaultConfig none) (wordInput 0x10000023000000230) = some .bit0 := by decide
theorem witness_FeederTimeout : ({ pending := some 560, running := true } : Feeder).running = true
    ∧ ({ pending := some 560, running := true } : Feeder).pending = some 560 ∧ feederStart.pending = none := by decide
theorem witness_FeederSkipsEndsAndRefuses : feederStart.running = true ∧ feederStart.pending = none
    ∧ ({ pending := some 560, running := true } : Feeder).pending.isSome = true
    ∧ (FeederInput.readError = .endOfStream ∨ FeederInput.readError = .readError) := by decide
theorem witness_RenderingIsTwoHexDigitsPerByte : renderMessage [0xB2] = renderMessage [0xB2]
    ∧ 'b' ∈ renderMessage [0xB2] := by decide

end Sys2Proof.Tests
end

section
/-! What a step that answers a next state has done, said once for every input; then the statements about the five state
items and the initial state (10_state.md R22, R24). -/

namespace Sys2Proof.Machine

/-! ### The decoder and the classification of an input -/

/-- An event's instruction is the accumulator's step on its classification (42_message_fsm.md R95). -/
theorem exec_eventInstr (c : Classification) (t : Pair) (s : State) : exec (eventInstr c t) s = accStep c t s := by
  cases c <;> rfl

/-- What format P decodes is a word of the port's width, and its instruction is that of its pair. -/
theorem decodeWord_ok {durW w : Nat} {i : Instr} (h : decodeWord durW w = .ok i) :
    w < 2 ^ (2 * durW + 1) ∧ i = pairInstr (pairOfWord durW w) := by
  unfold decodeWord at h
  split at h
  · cases h; exact ⟨‹_›, rfl⟩
  · cases h

/-- What format E decodes has a code of R48, and its instruction is the event of that code. -/
theorem decodeEvent_ok {durW code : Nat} {t : Pair} {i : Instr} (h : decodeEvent durW code t = .ok i) :
    ∃ c, classOfCode code = some c ∧ i = eventInstr c t := by
  unfold decodeEvent at h
  cases hc : classOfCode code with
  | none => rw [hc] at h; cases h
  | some c =>
    simp only [hc] at h
    split at h
    · cases h; exact ⟨c, rfl, rfl⟩
    · cases h

/-- A valid word of the port's width, presented without reset, has the classification of its pair. -/
theorem inputClass_port {cfg : Config} {g : Port} (hr : g.rst = false) (hv : g.iValid = true)
    (hw : g.word < 2 ^ (2 * cfg.durW + 1)) :
    inputClass cfg (.port g) =
      some (classify cfg (pairOfWord cfg.durW g.word).pulse (pairOfWord cfg.durW g.word).space) := by
  simp [inputClass, hr, hv, hw]

/-! ### What a step that answers a next state has done -/

/-- A decoded input that answers a next state ran its instruction; the record is all that was added. -/
theorem runDecoded_next {x : Input} {s u : State} (h : runDecoded x s = .next u) :
    ∃ i v, decodeInput s.cfg.durW x = .ok i ∧ exec i s = .next v
      ∧ u = setRecord (some (recordOf (pairOfInput s.cfg.durW x) (v.trace.drop s.trace.length))) v := by
  cases hi : decodeInput s.cfg.durW x with
  | error e => rw [runDecoded_of_error hi] at h; cases h
  | ok i =>
    rw [runDecoded_of_ok hi] at h
    obtain ⟨v, hv, hu⟩ := present_next h
    exact ⟨i, v, rfl, hv, hu⟩

/-- An input that answers a next state was a reset, no transaction, or an input with a classification, which the
accumulator performed on the input's pair before the record was presented (42_message_fsm.md R95). -/
theorem performInput_next {x : Input} {s u : State} (h : performInput x s = .next u) :
    (∃ g, x = .port g ∧ g.rst = true ∧ u = resetStep s)
    ∨ (∃ g, x = .port g ∧ g.rst = false ∧ g.iValid = false ∧ u = idleStep s)
    ∨ (∃ c v, inputClass s.cfg x = some c ∧ accStep c (pairOfInput s.cfg.durW x) s = .next v
        ∧ u = setRecord (some (recordOf (pairOfInput s.cfg.durW x) (v.trace.drop s.trace.length))) v) := by
  cases x with
  | event code t =>
    obtain ⟨i, v, hi, hv, hu⟩ := runDecoded_next h
    obtain ⟨c, hc, rfl⟩ := decodeEvent_ok hi
    rw [exec_eventInstr] at hv
    exact .inr (.inr ⟨c, v, hc, hv, hu⟩)
  | port g =>
    cases hr : g.rst with
    | true =>
      simp only [performInput, hr, if_true, Host.Outcome.next.injEq] at h
      exact .inl ⟨g, rfl, hr, h.symm⟩
    | false =>
      cases hi : g.iValid with
      | false =>
        simp only [performInput, hr, hi, Bool.false_eq_true, if_false, Host.Outcome.next.injEq] at h
        exact .inr (.inl ⟨g, rfl, hr, hi, h.symm⟩)
      | true =>
        simp only [performInput, hr, hi, Bool.false_eq_true, if_false, if_true] at h
        obtain ⟨i, v, hd, hv, hu⟩ := runDecoded_next h
        obtain ⟨hw, rfl⟩ := decodeWord_ok hd
        rw [exec_pairInstr] at hv
        exact .inr (.inr ⟨_, v, inputClass_port hr hi hw, hv, hu⟩)

/-- A step that answers a next state idled with nothing left, or performed the next input and consumed it. -/
theorem step_next {s u : State} (h : step s = .next u) :
    (s.input = [] ∧ u = idleStep s)
    ∨ ∃ x ts, s.input = x :: ts ∧ performInput x (setInput ts s) = .next u := by
  unfold step at h
  cases hi : s.input with
  | nil => rw [hi] at h; cases h; exact .inl ⟨rfl, rfl⟩
  | cons x ts => rw [hi] at h; exact .inr ⟨x, ts, rfl, h⟩

/-! ### The five items of 10_state.md R10 -/

/-- No transaction leaves the five items as they were (30_encoding.md R53). -/
theorem sameItems_idleStep (s : State) : sameItems s (idleStep s) := ⟨rfl, rfl, rfl, rfl, rfl⟩

/-- An output event changes none of the five items (00_scope.md R7). -/
theorem sameItems_emit (e : Event) (s : State) : sameItems s (emit e s) := ⟨rfl, rfl, rfl, rfl, rfl⟩

/-- A next state of a guarded report is the state with the event in its output. -/
theorem eq_emit_of_whenCoherent {e : Event} {s u : State}
    (h : whenCoherent s (fun s => .next (emit e s)) = .next u) : u = emit e s := by
  obtain ⟨-, he⟩ := whenCoherent_next h
  cases he; rfl

/-- UNKNOWN only reports the raw pair (42_message_fsm.md R92). -/
theorem accStep_unknown_next {t : Pair} {s u : State} (h : accStep .unknown t s = .next u) :
    u = emit (.unknownPair t.pulse t.space) s := eq_emit_of_whenCoherent h

/-- HEADER only reports (42_message_fsm.md R91). -/
theorem accStep_header_next {t : Pair} {s u : State} (h : accStep .header t s = .next u) :
    u = emit .headerSeen s := eq_emit_of_whenCoherent h

/-- An event that changes one of the five items is a Bit or a Gap. -/
theorem class_of_accStep_changes {c : Classification} {t : Pair} {s u : State} (h : accStep c t s = .next u)
    (hne : ¬ sameItems s u) : c = .bit0 ∨ c = .bit1 ∨ c = .gap := by
  cases c with
  | unknown => cases accStep_unknown_next h; exact absurd (sameItems_emit _ s) hne
  | header => cases accStep_header_next h; exact absurd (sameItems_emit _ s) hne
  | bit0 => exact .inl rfl
  | bit1 => exact .inr (.inl rfl)
  | gap => exact .inr (.inr rfl)

/-- Settles O44, by the inversion of a step: no transaction, UNKNOWN and HEADER leave the items as they were, and the
input's own classification is the event the accumulator performed. -/
theorem onlyBitsGapAndResetWriteState : Obligations.OnlyBitsGapAndResetWriteState := by
  intro s t hstep hne
  obtain ⟨-, rfl⟩ | ⟨x, ts, hin, hx⟩ := step_next hstep
  · exact absurd (sameItems_idleStep s) hne
  · obtain ⟨g, rfl, hr, -⟩ | ⟨g, -, -, -, rfl⟩ | ⟨c, v, hc, hv, rfl⟩ := performInput_next hx
    · exact .inl ⟨g, ts, hin, hr⟩
    · exact absurd (sameItems_idleStep (setInput ts s)) hne
    · refine .inr ⟨x, ts, hin, ?_⟩
      obtain rfl | rfl | rfl := class_of_accStep_changes hv hne
      · exact .inl hc
      · exact .inr (.inl hc)
      · exact .inr (.inr hc)

/-! ### The initial state (10_state.md R24) -/

@[simp] theorem message_resetWith (cfg : Config) : message (State.resetWith cfg) = [] := rfl
@[simp] theorem message_toInitial (s : State) : message (toInitial s) = [] := rfl

/-- GAP in a coherent state answers the initial state with its report added to the output (42_message_fsm.md R90). -/
theorem exec_gap_of_coherent {s : State} (h : Coherent s) (sp : Option Nat) :
    exec (.gap sp) s =
      .next (toInitial (emit (.message (message s) s.ovf) (emitDiscarded (emit (.gapSeen sp) s)))) :=
  (whenCoherent_of_coherent h (gapEvent sp)).trans (gapEvent_coherent h sp)

/-- Settles O32: the launch state by its definition, the state after a Gap because GAP answers an initial state. -/
theorem initialStateAtLaunchAndAfterGap : Obligations.InitialStateAtLaunchAndAfterGap := by
  refine ⟨fun cfg => ?_, fun s sp h => ?_⟩
  · exact ⟨resetWith_bitCount cfg, resetWith_bitBuffer cfg, message_resetWith cfg⟩
  · exact ⟨_, exec_gap_of_coherent h sp, toInitial_bitCount _, toInitial_bitBuffer _, message_toInitial _⟩

end Sys2Proof.Machine
end

section
/-! The words of format P as fields and as pairs, the host's clamping, and a step on a word as a row of the transition
table (30_encoding.md R46, R47, R50, R52, R53). -/

namespace Sys2Proof.Machine

/-! ### The fields of a word -/

/-- The top field of a word of the port has one bit (30_encoding.md R45). -/
theorem topField_lt_two {durW w : Nat} (h : w < 2 ^ (2 * durW + 1)) : w / 2 ^ (2 * durW) < 2 :=
  Nat.div_lt_of_lt_mul (by rwa [pow_succ] at h)

/-- A word whose top bit is not set has a zero top field. -/
theorem topField_eq_zero {durW w : Nat} (h : w < 2 ^ (2 * durW + 1)) (hne : w / 2 ^ (2 * durW) ≠ 1) :
    w / 2 ^ (2 * durW) = 0 :=
  Nat.lt_one_iff.1 (Nat.lt_of_le_of_ne (Nat.le_of_lt_succ (topField_lt_two h)) hne)

/-- A number is put together from its three fields. -/
theorem word_eq_fields (durW w : Nat) :
    w = w / 2 ^ (2 * durW) * 2 ^ (2 * durW) + w / 2 ^ durW % 2 ^ durW * 2 ^ durW + w % 2 ^ durW := by
  have hsq : 2 ^ (2 * durW) = 2 ^ durW * 2 ^ durW := by rw [two_mul, pow_add]
  have htop : w / 2 ^ (2 * durW) = w / 2 ^ durW / 2 ^ durW := by rw [hsq, Nat.div_div_eq_div_mul]
  calc w = w / 2 ^ durW * 2 ^ durW + w % 2 ^ durW := (Nat.div_add_mod' w _).symm
    _ = (w / 2 ^ durW / 2 ^ durW * 2 ^ durW + w / 2 ^ durW % 2 ^ durW) * 2 ^ durW + w % 2 ^ durW := by
      rw [Nat.div_add_mod' (w / 2 ^ durW)]
    _ = _ := by rw [htop, hsq]; ring

/-- The fields of a word assembled from operands that fit: its low, its middle and its top field. -/
theorem fields_of_assembled {durW p s : Nat} (hp : p < 2 ^ durW) (hs : s < 2 ^ durW) :
    (2 ^ (2 * durW) + s * 2 ^ durW + p) % 2 ^ durW = p
    ∧ (2 ^ (2 * durW) + s * 2 ^ durW + p) / 2 ^ durW % 2 ^ durW = s
    ∧ (2 ^ (2 * durW) + s * 2 ^ durW + p) / 2 ^ (2 * durW) = 1 := by
  have hpos : 0 < 2 ^ durW := Nat.two_pow_pos durW
  have hsq : 2 ^ (2 * durW) = 2 ^ durW * 2 ^ durW := by rw [two_mul, pow_add]
  have hw : 2 ^ (2 * durW) + s * 2 ^ durW + p = p + (s + 2 ^ durW) * 2 ^ durW := by rw [hsq]; ring
  have hdiv : (2 ^ (2 * durW) + s * 2 ^ durW + p) / 2 ^ durW = s + 2 ^ durW := by
    rw [hw, Nat.add_mul_div_right _ _ hpos, Nat.div_eq_of_lt hp, Nat.zero_add]
  refine ⟨?_, ?_, ?_⟩
  · rw [hw, Nat.add_mul_mod_self_right, Nat.mod_eq_of_lt hp]
  · rw [hdiv, Nat.add_mod_right, Nat.mod_eq_of_lt hs]
  · calc _ = (s + 2 ^ durW) / 2 ^ durW := by rw [← hdiv, Nat.div_div_eq_div_mul, ← hsq]
      _ = 1 := by rw [Nat.add_div_right _ hpos, Nat.div_eq_of_lt hs]

/-! ### The pair of a word, and the word of a pair -/

/-- A pair is its two durations (00_scope.md glossary). -/
theorem pair_eq_iff {t u : Pair} : t = u ↔ t.pulse = u.pulse ∧ t.space = u.space := by
  cases t
  cases u
  rw [Pair.mk.injEq]

@[simp] theorem pairOfWord_pulse (durW w : Nat) : (pairOfWord durW w).pulse = w % 2 ^ durW := by
  simp [pairOfWord, bitField]

/-- The space of a word of the port's width, by its top bit (30_encoding.md R46). -/
theorem pairOfWord_space {durW w : Nat} (h : w < 2 ^ (2 * durW + 1)) :
    (pairOfWord durW w).space = if w / 2 ^ (2 * durW) = 1 then some (w / 2 ^ durW % 2 ^ durW) else none := by
  simp only [pairOfWord, bitField, pow_one, Nat.mod_eq_of_lt (topField_lt_two h)]

/-- The word of a pair that fits has the port's width (30_encoding.md R45). -/
theorem wordOfPair_lt {durW : Nat} {t : Pair} (hp : durationFits durW t.pulse = true)
    (hs : spaceFits durW t.space = true) : wordOfPair durW t < 2 ^ (2 * durW + 1) := by
  obtain ⟨p, _ | v⟩ := t
  · exact wordOfPair_none_lt (of_decide_eq_true hp)
  · exact wordOfPair_some_lt (of_decide_eq_true hp) (of_decide_eq_true hs)

/-- Encoding is the inverse of the decoding of the operands (30_encoding.md R46). -/
theorem pairOfWord_wordOfPair {durW : Nat} {t : Pair} (hp : durationFits durW t.pulse = true)
    (hs : spaceFits durW t.space = true) : pairOfWord durW (wordOfPair durW t) = t := by
  rw [pair_eq_iff, pairOfWord_pulse, pairOfWord_space (wordOfPair_lt hp hs)]
  obtain ⟨p, _ | v⟩ := t
  · have hlow : p < 2 ^ durW := of_decide_eq_true hp
    have htop : p / 2 ^ (2 * durW) = 0 :=
      Nat.div_eq_of_lt (hlow.trans_le (Nat.pow_le_pow_right (by omega) (by omega)))
    simp [wordOfPair, Nat.mod_eq_of_lt hlow, htop]
  · obtain ⟨hlow, hmid, htop⟩ := fields_of_assembled (of_decide_eq_true hp) (of_decide_eq_true hs)
    simp [wordOfPair, hlow, hmid, htop]

/-- Settles O2, by the fields of a word and the inverse on pairs that fit. -/
theorem wordOperandsAssemble : Obligations.WordOperandsAssemble := by
  refine ⟨fun durW w hw => ⟨pairOfWord_pulse durW w, fun h1 => ?_, fun h1 => ?_⟩,
    fun durW t hp hs => ⟨wordOfPair_lt hp hs, pairOfWord_wordOfPair hp hs, fun hnone => ?_⟩⟩
  · rw [pairOfWord_space hw, if_pos h1]
  · rw [pairOfWord_space hw, if_neg h1]
  · simp only [wordOfPair, hnone]
    exact Nat.div_eq_of_lt (of_decide_eq_true hp)

/-! ### The decoder of format P -/

/-- Two pairs with the same transaction are the same pair (40_classifier.md R63, R64). -/
theorem pairInstr_inj {t u : Pair} : pairInstr t = pairInstr u ↔ t = u := by
  obtain ⟨p, _ | v⟩ := t <;> obtain ⟨q, _ | x⟩ := u <;> simp [pairInstr]

/-- Two words carry the same pair exactly when they are equal or differ in the ignored field only: with the top bit set
every field is read, with it clear only the pulse (30_encoding.md R52). -/
theorem pairOfWord_eq_iff {durW w1 w2 : Nat} (h1 : w1 < 2 ^ (2 * durW + 1)) (h2 : w2 < 2 ^ (2 * durW + 1)) :
    pairOfWord durW w1 = pairOfWord durW w2 ↔
      w1 = w2 ∨ (w1 / 2 ^ (2 * durW) = 0 ∧ w2 / 2 ^ (2 * durW) = 0 ∧ w1 % 2 ^ durW = w2 % 2 ^ durW) := by
  rw [pair_eq_iff, pairOfWord_pulse, pairOfWord_pulse, pairOfWord_space h1, pairOfWord_space h2]
  constructor
  · rintro ⟨hpulse, hspace⟩
    split_ifs at hspace with hs1 hs2 hs2
    · left
      rw [word_eq_fields durW w1, word_eq_fields durW w2, hs1, hs2, hpulse, Option.some.inj hspace]
    · exact .inr ⟨topField_eq_zero h1 hs1, topField_eq_zero h2 hs2, hpulse⟩
  · rintro (rfl | ⟨hs1, hs2, hpulse⟩)
    · exact ⟨rfl, rfl⟩
    · exact ⟨hpulse, by simp [hs1, hs2]⟩

/-- Settles O3, by the injectivity of the transaction of a pair and of the pair of a word up to the ignored field. -/
theorem wordDecoderInjective : Obligations.WordDecoderInjective := by
  refine ⟨fun durW w => ⟨fun h => ⟨_, decodeWord_of_lt h⟩, fun ⟨i, hi⟩ => (decodeWord_ok hi).1⟩,
    fun durW w1 w2 h1 h2 => ?_⟩
  rw [decodeWord_of_lt h1, decodeWord_of_lt h2, Except.ok.injEq, pairInstr_inj, pairOfWord_eq_iff h1 h2]

/-! ### Clamping (30_encoding.md R47) -/

/-- A constant that fits is below the clamped width exactly when it is below the width. -/
theorem lt_clampWidth_iff {durW c : Nat} (hc : constantFits durW c) (v : Int) :
    c < clampWidth durW v ↔ (c : Int) < v := by
  unfold clampWidth
  omega

/-- The clamped width is below a constant that fits exactly when the width is, a negative width left out. -/
theorem clampWidth_lt_iff {durW c : Nat} (hc : constantFits durW c) {v : Int} (hv : 0 ≤ v) :
    clampWidth durW v < c ↔ v < (c : Int) := by
  unfold clampWidth
  omega

/-- Clamping keeps a window's answer: a negative width is, like 0, not above the lower bound. -/
theorem within_clampWidth {durW : Nat} {w : Window} (hw : windowFits durW w) (v : Int) :
    within w (clampWidth durW v) = withinInt w v := by
  obtain ⟨hmin, hmax⟩ := hw
  simp only [within, withinInt, lt_clampWidth_iff hmin]
  by_cases hv : (w.min : Int) < v
  · simp only [clampWidth_lt_iff hmax (v := v) (by omega)]
  · simp [hv]

theorem withinOpt_clampWidth {durW : Nat} {w : Window} (hw : windowFits durW w) (s : Option Int) :
    withinOpt w (s.map (clampWidth durW)) = withinIntOpt w s := by
  cases s with
  | none => rfl
  | some v => exact within_clampWidth hw v

theorem aboveGap_clampWidth {cfg : Config} (hg : constantFits cfg.durW cfg.gapSpaceMin) (s : Option Int) :
    aboveGap cfg (s.map (clampWidth cfg.durW)) = aboveGapInt cfg s := by
  cases s with
  | none => rfl
  | some v => simp only [Option.map_some, aboveGap, aboveGapInt, lt_clampWidth_iff hg]

/-- Every test of the decision list answers the same on the clamped widths as on the integers. -/
theorem classify_clampWidth {cfg : Config} (h : constantsFit cfg) (p : Int) (s : Option Int) :
    classify cfg (clampWidth cfg.durW p) (s.map (clampWidth cfg.durW)) = classifyInt cfg p s := by
  obtain ⟨hhp, hhs, hbp, hzs, hos, hg⟩ := h
  simp only [classify, classifyInt, isGap, isHeader, isOne, isZero, within_clampWidth hhp, within_clampWidth hbp,
    withinOpt_clampWidth hhs, withinOpt_clampWidth hzs, withinOpt_clampWidth hos, aboveGap_clampWidth hg,
    Option.isNone_map]

/-- 14 bits hold every constant of the default profile (00_scope.md R5). -/
theorem constantsFit_default_fourteen (depth : Option Nat) : constantsFit { defaultConfig depth with durW := 14 } := by
  simp only [constantsFit, windowFits, constantFits, defaultConfig, defaultProfile]
  decide

/-- How a width is clamped, from above, from below and in range (30_encoding.md R47). -/
theorem clampWidth_cases (durW : Nat) (v : Int) :
    ((2 ^ durW - 1 : Int) < v → (clampWidth durW v : Int) = 2 ^ durW - 1)
    ∧ (v < 0 → clampWidth durW v = 0)
    ∧ (0 ≤ v → v ≤ 2 ^ durW - 1 → (clampWidth durW v : Int) = v) := by
  have hpos : 0 < 2 ^ durW := Nat.two_pow_pos durW
  have hcast : ((2 ^ durW : Nat) : Int) = 2 ^ durW := by norm_cast
  unfold clampWidth
  omega

/-- Settles O11: each test of the classifier is kept by clamping, so the decision list is. -/
theorem clampingKeepsClassification : Obligations.ClampingKeepsClassification := by
  refine ⟨clampWidth_cases, fun cfg p s h => classify_clampWidth h p s, fun depth hd => ?_⟩
  exact ⟨le_refl 14, hd, constantsFit_default_fourteen depth⟩

/-! ### An event in a coherent state is its row of the transition table (42_message_fsm.md R94) -/

/-- The bit buffer of a coherent state can be shifted without loss (10_state.md R23, 41_accumulator.md R86). -/
theorem bitBuffer_lt {s : State} (h : Coherent s) : s.bitBuffer.toNat < 128 := by
  have hcount : s.bitCount.toNat ≤ 7 := Nat.le_of_lt_succ s.bitCount.isLt
  exact h.1.trans_le (Nat.pow_le_pow_right (by omega) hcount)

/-- Shift and OR compute the table's `2*buf + v` (41_accumulator.md R80). -/
theorem shiftIn_eq_tableByte {s : State} (h : Coherent s) (v : Bit) : shiftIn s.bitBuffer v = tableByte v s := by
  apply BitVec.eq_of_toNat_eq
  have hbuf := bitBuffer_lt h
  have hv := v.isLt
  rw [shiftIn_toNat _ _ hbuf, tableByte, BitVec.toNat_ofNat, Nat.mod_eq_of_lt (by omega)]

/-- The table's "room" is the machine's room test (41_accumulator.md R83). -/
theorem tableRoom_iff {s : State} (h : Coherent s) : TableRoom s ↔ hasRoom s = true := by
  rw [hasRoom_true_iff, TableRoom, message_length h]

/-- A Bit event in a coherent state is the BIT row. -/
theorem bitEvent_of_coherent {s : State} (h : Coherent s) (v : Bit) : bitEvent v s = tableBit v s := by
  have hroom := tableRoom_iff h
  obtain ⟨hc, he⟩ | ⟨hc, hr, he⟩ | ⟨hc, hr, he⟩ := bitEvent_cases v s
  · have hcount : BitVec.ofNat 3 (s.bitCount.toNat + 1) = s.bitCount + 1 := by
      apply BitVec.eq_of_toNat_eq
      simp
    rw [he, tableBit, if_pos hc, hcount, shiftIn_eq_tableByte h]
    rfl
  · rw [he, tableBit, if_neg (by omega), if_pos (hroom.2 hr), shiftIn_eq_tableByte h]
    simp [setBits, emit, storeByte, memWrite_at_length h.2.1]
  · rw [he, tableBit, if_neg (by omega), if_neg (by simp [hroom, hr]), shiftIn_eq_tableByte h]
    simp [setBits, emit, recordFault, setOvf]

/-- A Gap in a coherent state is the GAP row. -/
theorem exec_gap_eq_tableGap {s : State} (h : Coherent s) (sp : Option Nat) :
    exec (.gap sp) s = .next (tableGap sp s) := by
  rw [exec_gap_of_coherent h, emitDiscarded_eq, tableGap]
  by_cases hc : s.bitCount = 0#3 <;> simp [toInitial, emit, hc]

/-- An event in a coherent state answers its row of the transition table. -/
theorem accStep_of_coherent {s : State} (h : Coherent s) (c : Classification) (t : Pair) :
    accStep c t s = .next (tableRow c t s) := by
  cases c with
  | unknown => rw [accStep, execUnknown, whenCoherent_of_coherent h]; rfl
  | header => rw [accStep, execHeader, whenCoherent_of_coherent h]; rfl
  | bit0 => rw [accStep, execBit0, whenCoherent_of_coherent h, bitEvent_of_coherent h]; rfl
  | bit1 => rw [accStep, execBit1, whenCoherent_of_coherent h, bitEvent_of_coherent h]; rfl
  | gap => exact exec_gap_eq_tableGap h t.space

/-- No row touches the inputs the host has still to present (42_message_fsm.md R95). -/
@[simp] theorem tableRow_input (c : Classification) (t : Pair) (s : State) : (tableRow c t s).input = s.input := by
  have hbit (v : Bit) : (tableBit v s).input = s.input := by
    unfold tableBit
    split_ifs <;> rfl
  cases c with
  | unknown => rfl
  | header => rfl
  | bit0 => exact hbit 0
  | bit1 => exact hbit 1
  | gap => rfl

/-! ### A step on a word of the port -/

/-- An input that presents a word is a word of the port's width (30_encoding.md R45, R53). -/
theorem eq_wordInput_of_presentsWord {durW : Nat} {t : Input} (h : presentsWord durW t = true) :
    ∃ w, t = wordInput w ∧ w < 2 ^ (2 * durW + 1) := by
  obtain ⟨⟨rst, iValid, w⟩⟩ | ⟨code, p⟩ := t
  · simp only [presentsWord, Bool.and_eq_true, Bool.not_eq_true', decide_eq_true_eq] at h
    obtain ⟨⟨rfl, rfl⟩, hw⟩ := h
    exact ⟨w, rfl, hw⟩
  · cases h

/-- A word of the port in a coherent state: the row of its classification on the state with the input consumed, and the
record of the row's events (42_message_fsm.md R95, 30_encoding.md R49). -/
theorem step_word {s v : State} {w : Nat} {ts : List Input} {c : Classification} (h : Coherent s)
    (hin : s.input = wordInput w :: ts) (hw : w < 2 ^ (2 * s.cfg.durW + 1))
    (hc : inputClass s.cfg (wordInput w) = some c)
    (hv : tableRow c (pairOfWord s.cfg.durW w) (setInput ts s) = v) :
    step s = .next (setRecord
      (some (recordOf (pairOfWord s.cfg.durW w) (v.trace.drop s.trace.length))) v) := by
  have hdec : decodeInput (setInput ts s).cfg.durW (wordInput w) = .ok (pairInstr (pairOfWord s.cfg.durW w)) :=
    decodeWord_of_lt hw
  have hclass : classify s.cfg (pairOfWord s.cfg.durW w).pulse (pairOfWord s.cfg.durW w).space = c :=
    Option.some.inj ((inputClass_port rfl rfl hw).symm.trans hc)
  have hexec : exec (pairInstr (pairOfWord s.cfg.durW w)) (setInput ts s) = .next v := by
    rw [exec_pairInstr, setInput_cfg, hclass, accStep_of_coherent (s := setInput ts s) h, hv]
  calc step s = performInput (wordInput w) (setInput ts s) := by rw [step, hin]
    _ = present (pairOfWord s.cfg.durW w) s.trace (exec (pairInstr (pairOfWord s.cfg.durW w)) (setInput ts s)) :=
      runDecoded_of_ok hdec
    _ = _ := by rw [hexec]; rfl

/-! ### The events of a row (30_encoding.md R50) -/

/-- The events of a BIT row: the decoded bit first, then a completed byte exactly when the count was 7. -/
theorem tableBit_trace (v : Bit) (s : State) : ∃ es, (tableBit v s).trace = s.trace ++ es
    ∧ (∃ rest, es = .bitDecoded v :: rest ∧ ∀ x ∈ rest, isLeadEvent x = false)
    ∧ (es = [.bitDecoded v] ∧ s.bitCount.toNat ≤ 6
      ∨ (∃ b, es = [.bitDecoded v, .byteAssembled b] ∨ es = [.bitDecoded v, .overflow b])
        ∧ s.bitCount.toNat = 7) := by
  have hlt := s.bitCount.isLt
  unfold tableBit
  split_ifs with hc hr
  · exact ⟨_, rfl, ⟨[], rfl, by simp⟩, .inl ⟨rfl, hc⟩⟩
  · exact ⟨_, rfl, ⟨[.byteAssembled _], rfl, by simp [isLeadEvent]⟩, .inr ⟨⟨_, .inl rfl⟩, by omega⟩⟩
  · exact ⟨_, rfl, ⟨[.overflow _], rfl, by simp [isLeadEvent]⟩, .inr ⟨⟨_, .inr rfl⟩, by omega⟩⟩

/-- The events of the GAP row: the end of the message, the discarded bits if there were any, the message. -/
theorem tableGap_trace (sp : Option Nat) (s : State) : (tableGap sp s).trace = s.trace ++ (.gapSeen sp ::
    ((if s.bitCount = 0 then [] else [.discardedBits s.bitCount]) ++ [.message (message s) s.ovf])) := by
  unfold tableGap
  split_ifs <;> rfl

/-- The reports after a `GapSeen` are no leading events. -/
theorem isLeadEvent_of_mem_gapReport {n : BitVec 3} {bytes : List Byte} {trunc : Bool} {x : Event}
    (h : x ∈ (if n = 0 then [] else [.discardedBits n]) ++ [.message bytes trunc]) : isLeadEvent x = false := by
  split_ifs at h
  · obtain rfl := List.mem_singleton.1 h
    rfl
  · obtain rfl | rfl := List.mem_pair.1 h <;> rfl

/-- Settles O22: a step on a word is the row of its classification, whose events are known row by row. -/
theorem stepEventOrder : Obligations.StepEventOrder := by
  intro s t ts c hs hin ht hc
  obtain ⟨w, rfl, hw⟩ := eq_wordInput_of_presentsWord ht
  have hstep := step_word hs hin hw hc rfl
  cases c with
  | header => exact ⟨_, _, hstep, rfl, ⟨_, [], rfl, rfl, nofun⟩, fun _ => rfl, nofun, nofun, nofun⟩
  | unknown => exact ⟨_, _, hstep, rfl, ⟨_, [], rfl, rfl, nofun⟩, nofun, fun _ => rfl, nofun, nofun⟩
  | bit0 =>
    obtain ⟨es, htrace, ⟨rest, hes, hrest⟩, hcount⟩ := tableBit_trace 0 (setInput ts s)
    exact ⟨_, es, hstep, htrace, ⟨_, rest, hes, rfl, hrest⟩, nofun, nofun, fun _ => ⟨0, rfl, hcount⟩, nofun⟩
  | bit1 =>
    obtain ⟨es, htrace, ⟨rest, hes, hrest⟩, hcount⟩ := tableBit_trace 1 (setInput ts s)
    exact ⟨_, es, hstep, htrace, ⟨_, rest, hes, rfl, hrest⟩, nofun, nofun, fun _ => ⟨1, rfl, hcount⟩, nofun⟩
  | gap =>
    exact ⟨_, _, hstep, tableGap_trace _ (setInput ts s),
      ⟨_, _, rfl, rfl, fun _ => isLeadEvent_of_mem_gapReport⟩, nofun, nofun, nofun, fun _ => rfl⟩

/-! ### No word, and a word of the port (30_encoding.md R53) -/

/-- Settles O29: an empty step idles by definition, and a word of the port has a classification, whose row the step
answers. -/
theorem idleStepAndAlwaysReady : Obligations.IdleStepAndAlwaysReady := by
  refine ⟨fun s w ts hin => ?_, fun s w ts hs hw hin => ?_⟩
  · rw [step, hin]
    rfl
  · exact ⟨_, step_word hs hin hw (inputClass_port rfl rfl hw) rfl, tableRow_input _ _ _, rfl⟩

end Sys2Proof.Machine
end

section
/-! The window test, the decision list as equivalences and region by region, and the two transactions of a pair
(40_classifier.md R60 to R64, R67, R68). -/

namespace Sys2Proof.Machine

/-! ### The window test (40_classifier.md R60, R61) -/

theorem within_iff (w : Window) (v : Nat) : within w v = true ↔ w.min < v ∧ v < w.max := by
  simp [within]

/-- A value on a bound does not match (40_classifier.md R60). -/
theorem within_eq_false_of_bound {w : Window} {v : Nat} (h : v = w.min ∨ v = w.max) : within w v = false := by
  rw [Bool.eq_false_iff, Ne, within_iff]
  omega

/-- Two windows that share no value do not match together (10_state.md R18 (b)). -/
theorem within_eq_false_of_windowsApart {a b : Window} (h : windowsApart a b) {v : Nat} (hv : within a v = true) :
    within b v = false := by
  rw [within_iff] at hv
  rw [Bool.eq_false_iff, Ne, within_iff]
  omega

/-- A window that ends at the gap threshold does not match a space above it (10_state.md R18 (c)). -/
theorem within_eq_false_of_above {w : Window} {g v : Nat} (h : w.max ≤ g + 1) (hv : g < v) : within w v = false := by
  rw [Bool.eq_false_iff, Ne, within_iff]
  omega

/-- Settles O7, by the definitions of the three tests. -/
theorem windowBoundsExclusive : Obligations.WindowBoundsExclusive := by
  refine ⟨within_iff, fun w => ⟨within_eq_false_of_bound (.inl rfl), within_eq_false_of_bound (.inr rfl)⟩,
    fun w => ⟨rfl, fun v => rfl⟩, fun cfg => ⟨rfl, fun v => ?_⟩⟩
  exact decide_eq_true_iff

/-! ### The decision list as equivalences (40_classifier.md R62) -/

section
variable (cfg : Config) (p : Nat) (s : Option Nat)

theorem classify_eq_gap_iff : classify cfg p s = .gap ↔ isGap cfg p s = true := by
  unfold classify
  split_ifs <;> simp [*]

theorem classify_eq_header_iff :
    classify cfg p s = .header ↔ ¬ isGap cfg p s = true ∧ isHeader cfg p s = true := by
  unfold classify
  split_ifs <;> simp [*]

theorem classify_eq_bit1_iff : classify cfg p s = .bit1 ↔
    ¬ isGap cfg p s = true ∧ ¬ isHeader cfg p s = true ∧ isOne cfg p s = true := by
  unfold classify
  split_ifs <;> simp [*]

theorem classify_eq_bit0_iff : classify cfg p s = .bit0 ↔
    ¬ isGap cfg p s = true ∧ ¬ isHeader cfg p s = true ∧ ¬ isOne cfg p s = true ∧ isZero cfg p s = true := by
  unfold classify
  split_ifs <;> simp [*]

theorem classify_eq_unknown_iff : classify cfg p s = .unknown ↔
    ¬ isGap cfg p s = true ∧ ¬ isHeader cfg p s = true ∧ ¬ isOne cfg p s = true ∧ ¬ isZero cfg p s = true := by
  unfold classify
  split_ifs <;> simp [*]

end

/-- The gap threshold is strict: a space of exactly the threshold is no Gap (40_classifier.md R62). -/
theorem classify_gapSpaceMin_ne_gap (cfg : Config) (p : Nat) : classify cfg p (some cfg.gapSpaceMin) ≠ .gap := by
  simp [classify_eq_gap_iff, isGap_iff]

/-- Settles O8: each outcome is its line with no earlier one, and the lines are the conditions over numbers. -/
theorem classifyFirstMatchWins : Obligations.ClassifyFirstMatchWins := by
  refine ⟨fun depth => ⟨rfl, classify_gapSpaceMin_ne_gap (defaultConfig depth)⟩, ?_⟩
  intro cfg p s line1 line2 line3 line4 h1 h2 h3 h4
  rw [← isGap_iff] at h1
  rw [← isHeader_iff] at h2
  rw [← isOne_iff] at h3
  rw [← isZero_iff] at h4
  rw [h1, h2, h3, h4]
  exact ⟨classify_eq_gap_iff cfg p s, classify_eq_header_iff cfg p s, classify_eq_bit1_iff cfg p s,
    classify_eq_bit0_iff cfg p s, classify_eq_unknown_iff cfg p s⟩

/-! ### Well-formed profiles (40_classifier.md R67) -/

/-- Line 2 needs a header pulse and the others a bit/gap pulse, which exclude each other. -/
theorem other_lines_false_of_isHeader {cfg : Config} (h : profileWellFormed cfg) {p : Nat} {s : Option Nat}
    (hh : isHeader cfg p s = true) : isGap cfg p s = false ∧ isOne cfg p s = false ∧ isZero cfg p s = false := by
  obtain ⟨-, hpulse, -⟩ := h
  have hb : within cfg.profile.bitPulse p = false :=
    within_eq_false_of_windowsApart hpulse (Bool.and_eq_true_iff.1 hh).1
  simp [isGap, isOne, isZero, hb]

/-- A space that is absent or above the threshold is in neither bit-space window. -/
theorem bit_lines_false_of_isGap {cfg : Config} (h : profileWellFormed cfg) {p : Nat} {s : Option Nat}
    (hg : isGap cfg p s = true) : isOne cfg p s = false ∧ isZero cfg p s = false := by
  obtain ⟨-, -, -, hzero, hone⟩ := h
  obtain ⟨-, rfl | ⟨v, rfl, hv⟩⟩ := (isGap_iff cfg p s).1 hg
  · simp [isOne, isZero, withinOpt]
  · simp [isOne, isZero, withinOpt, within_eq_false_of_above hone hv, within_eq_false_of_above hzero hv]

/-- The one-space window and the zero-space window share no value. -/
theorem isZero_eq_false_of_isOne {cfg : Config} (h : profileWellFormed cfg) {p : Nat} {s : Option Nat}
    (ho : isOne cfg p s = true) : isZero cfg p s = false := by
  obtain ⟨-, -, hapart, -⟩ := h
  obtain ⟨-, v, rfl, hv⟩ := (isOne_iff cfg p s).1 ho
  have hz : within cfg.profile.zeroSpace v = false :=
    within_eq_false_of_windowsApart hapart.symm ((within_iff _ _).2 hv)
  simp [isZero, withinOpt, hz]

/-- At most one line holds. -/
theorem lines_sum_le_one {cfg : Config} (h : profileWellFormed cfg) (p : Nat) (s : Option Nat) :
    (isGap cfg p s).toNat + (isHeader cfg p s).toNat + (isOne cfg p s).toNat + (isZero cfg p s).toNat ≤ 1 := by
  cases hh : isHeader cfg p s with
  | true =>
    obtain ⟨hg, ho, hz⟩ := other_lines_false_of_isHeader h hh
    simp [hg, ho, hz]
  | false =>
    cases hg : isGap cfg p s with
    | true =>
      obtain ⟨ho, hz⟩ := bit_lines_false_of_isGap h hg
      simp [ho, hz]
    | false =>
      cases ho : isOne cfg p s with
      | true => simp [isZero_eq_false_of_isOne h ho]
      | false => simpa using Bool.toNat_le (isZero cfg p s)

/-- When at most one of four lines holds, no line before one that holds does. -/
theorem no_earlier_line_of_sum_le_one : ∀ {a b c d : Bool}, a.toNat + b.toNat + c.toNat + d.toNat ≤ 1 →
    (b = true → ¬ a = true) ∧ (c = true → ¬ a = true ∧ ¬ b = true)
      ∧ (d = true → ¬ a = true ∧ ¬ b = true ∧ ¬ c = true) := by
  decide

/-- A profile in which header and bit share their pulse and header and one their space: lines 2 and 3 both hold for
the pair (4500, 4500). -/
def overlappingConfig : Config :=
  { defaultConfig none with
    profile := { defaultProfile with bitPulse := defaultProfile.headerPulse, oneSpace := defaultProfile.headerSpace } }

/-- Settles O9: a line that holds is the only one, so no earlier line stands in its way; in `overlappingConfig` lines 2
and 3 both hold. -/
theorem wellFormedProfileLinesExclusive : Obligations.WellFormedProfileLinesExclusive := by
  refine ⟨fun cfg p s h => ?_, overlappingConfig, 4500, some 4500, by decide, by decide, by decide, by decide⟩
  have hsum := lines_sum_le_one h p s
  obtain ⟨hheader, hone, hzero⟩ := no_earlier_line_of_sum_le_one hsum
  refine ⟨hsum, classify_eq_gap_iff cfg p s, ?_, ?_, ?_⟩
  · rw [classify_eq_header_iff, and_iff_right_of_imp hheader]
  · rw [classify_eq_bit1_iff]
    simpa only [and_assoc] using and_iff_right_of_imp hone
  · rw [classify_eq_bit0_iff]
    simpa only [and_assoc] using and_iff_right_of_imp hzero

/-! ### The decision list by the window of the pulse -/

/-- With an absent space only line 1 can hold (40_classifier.md R64). -/
theorem classify_none (cfg : Config) (p : Nat) :
    classify cfg p none = if within cfg.profile.bitPulse p then .gap else .unknown := by
  simp [classify, isGap, isHeader, isOne, isZero, withinOpt]

/-- A bit/gap pulse that is no header pulse is decided by its space alone: line 1, then 3, then 4. -/
theorem classify_bitPulse {cfg : Config} {p : Nat} (hb : within cfg.profile.bitPulse p = true)
    (hh : within cfg.profile.headerPulse p = false) (v : Nat) : classify cfg p (some v) =
      if cfg.gapSpaceMin < v then .gap else if within cfg.profile.oneSpace v then .bit1
      else if within cfg.profile.zeroSpace v then .bit0 else .unknown := by
  simp [classify, isGap, isHeader, isOne, isZero, withinOpt, aboveGap, hb, hh]

/-- A pulse outside the bit/gap-pulse window is decided by line 2 alone. -/
theorem classify_not_bitPulse {cfg : Config} {p : Nat} (hb : within cfg.profile.bitPulse p = false) (v : Nat) :
    classify cfg p (some v) =
      if within cfg.profile.headerPulse p && within cfg.profile.headerSpace v then .header else .unknown := by
  simp [classify, isGap, isHeader, isOne, isZero, withinOpt, hb]

/-! ### The default profile (40_classifier.md R68) -/

/-- The bit/gap-pulse window of the default profile. -/
theorem within_default_bitPulse (p : Nat) : within defaultProfile.bitPulse p = true ↔ 401 ≤ p ∧ p ≤ 749 := by
  rw [within_iff]
  simp only [defaultProfile]
  omega

/-- The header-pulse window of the default profile. -/
theorem within_default_headerPulse (p : Nat) : within defaultProfile.headerPulse p = true ↔ 4401 ≤ p ∧ p ≤ 4799 := by
  rw [within_iff]
  simp only [defaultProfile]
  omega

/-- The header-space window of the default profile. -/
theorem within_default_headerSpace (v : Nat) : within defaultProfile.headerSpace v = true ↔ 4401 ≤ v ∧ v ≤ 4799 :=
  within_default_headerPulse v

/-- The rows with an absent space. -/
theorem classify_default_none (depth : Option Nat) (p : Nat) :
    classify (defaultConfig depth) p none = if 401 ≤ p ∧ p ≤ 749 then .gap else .unknown :=
  (classify_none _ p).trans (if_congr (within_default_bitPulse p) rfl rfl)

/-- The rows of a bit/gap pulse with a space, in rising order of the space. -/
theorem classify_default_bitPulse (depth : Option Nat) {p : Nat} (hp : 401 ≤ p ∧ p ≤ 749) (v : Nat) :
    classify (defaultConfig depth) p (some v) =
      if v ≤ 350 then .unknown else if v ≤ 749 then .bit0 else if v ≤ 1500 then .unknown
      else if v ≤ 1819 then .bit1 else if v ≤ 10000 then .unknown else .gap := by
  have hb : within defaultProfile.bitPulse p = true := (within_default_bitPulse p).2 hp
  have hh : within defaultProfile.headerPulse p = false := by
    rw [Bool.eq_false_iff, Ne, within_default_headerPulse]
    omega
  rw [classify_bitPulse hb hh]
  simp only [within_iff, defaultConfig, defaultProfile]
  -- the two lists meet in the row of one range of spaces; any other pair of conditions contradicts itself
  split_ifs <;> grind

/-- The rows of any other pulse with a space: Header where both windows match. -/
theorem classify_default_not_bitPulse (depth : Option Nat) {p : Nat} (hp : ¬ (401 ≤ p ∧ p ≤ 749)) (v : Nat) :
    classify (defaultConfig depth) p (some v) =
      if (4401 ≤ p ∧ p ≤ 4799) ∧ 4401 ≤ v ∧ v ≤ 4799 then .header else .unknown := by
  have hb : within defaultProfile.bitPulse p = false := by
    rwa [Bool.eq_false_iff, Ne, within_default_bitPulse]
  rw [classify_not_bitPulse hb]
  refine if_congr ?_ rfl rfl
  rw [Bool.and_eq_true]
  exact and_congr (within_default_headerPulse p) (within_default_headerSpace v)

/-- Settles O10, by the window of the pulse. -/
theorem defaultProfilePartition : Obligations.DefaultProfilePartition := by
  intro depth p v
  refine ⟨classify_default_none depth p, ?_⟩
  by_cases hp : 401 ≤ p ∧ p ≤ 749
  · rw [if_pos hp, classify_default_bitPulse depth hp]
  · rw [if_neg hp, classify_default_not_bitPulse depth hp, ite_and]

/-! ### PAIR.S (40_classifier.md R63) -/

/-- The transaction of a pair in a coherent state is the row of its classification (42_message_fsm.md R94, R95). -/
theorem exec_pairInstr_of_coherent {s : State} (h : Coherent s) (t : Pair) :
    exec (pairInstr t) s = .next (tableRow (classify s.cfg t.pulse t.space) t s) :=
  (exec_pairInstr t s).trans (accStep_of_coherent h _ t)

/-- A pulse on a bound of the bit/gap-pulse window is neither a Gap nor a Bit. -/
theorem classify_bitPulse_bound {cfg : Config} {p : Nat}
    (h : p = cfg.profile.bitPulse.min ∨ p = cfg.profile.bitPulse.max) (v : Nat) :
    classify cfg p (some v) ≠ .gap ∧ classify cfg p (some v) ≠ .bit1 ∧ classify cfg p (some v) ≠ .bit0 := by
  rw [classify_not_bitPulse (within_eq_false_of_bound h)]
  split_ifs <;> decide

/-- A pulse or a space on a bound of its header window is no Header. -/
theorem classify_header_bound {cfg : Config} {p v : Nat}
    (h : p = cfg.profile.headerPulse.min ∨ p = cfg.profile.headerPulse.max ∨ v = cfg.profile.headerSpace.min
      ∨ v = cfg.profile.headerSpace.max) : classify cfg p (some v) ≠ .header := by
  rw [← or_assoc] at h
  rw [Ne, classify_eq_header_iff]
  obtain h | h := h <;> simp [isHeader, withinOpt, within_eq_false_of_bound h]

/-- A space on a bound of the one-space window is no Bit(1). -/
theorem classify_oneSpace_bound {cfg : Config} {v : Nat}
    (h : v = cfg.profile.oneSpace.min ∨ v = cfg.profile.oneSpace.max) (p : Nat) : classify cfg p (some v) ≠ .bit1 := by
  rw [Ne, classify_eq_bit1_iff]
  simp [isOne, withinOpt, within_eq_false_of_bound h]

/-- A space on a bound of the zero-space window is no Bit(0). -/
theorem classify_zeroSpace_bound {cfg : Config} {v : Nat}
    (h : v = cfg.profile.zeroSpace.min ∨ v = cfg.profile.zeroSpace.max) (p : Nat) : classify cfg p (some v) ≠ .bit0 := by
  rw [Ne, classify_eq_bit0_iff]
  simp [isZero, withinOpt, within_eq_false_of_bound h]

/-- Default profile, corner case (d) of R63: a bit/gap pulse with a space in no bit-space window and not above the
threshold. -/
theorem classify_default_bitPulse_unknown (depth : Option Nat) {p v : Nat} (hp : 401 ≤ p ∧ p ≤ 749)
    (hv : v ≤ 350 ∨ (750 ≤ v ∧ v ≤ 1500) ∨ (1820 ≤ v ∧ v ≤ 10000)) :
    classify (defaultConfig depth) p (some v) = .unknown := by
  rw [classify_default_bitPulse depth hp]
  obtain hv | ⟨hmin, hmax⟩ | ⟨hmin, hmax⟩ := hv
  · rw [if_pos hv]
  · rw [if_neg (by omega), if_neg (by omega), if_pos hmax]
  · rw [if_neg (by omega), if_neg (by omega), if_neg (by omega), if_neg (by omega), if_pos hmax]

/-- Default profile: any other pair but the two header widths. -/
theorem classify_default_not_bitPulse_unknown (depth : Option Nat) {p v : Nat} (hp : ¬ (401 ≤ p ∧ p ≤ 749))
    (hv : ¬ ((4401 ≤ p ∧ p ≤ 4799) ∧ 4401 ≤ v ∧ v ≤ 4799)) :
    classify (defaultConfig depth) p (some v) = .unknown := by
  rw [classify_default_not_bitPulse depth hp, if_neg hv]

/-- Default profile, corner case (e) of R63: a zero width, or a pulse of all ones. -/
theorem classify_default_extreme (depth : Option Nat) {p v : Nat} (h : p = 0 ∨ v = 0 ∨ p = 4294967295) :
    classify (defaultConfig depth) p (some v) = .unknown := by
  by_cases hp : 401 ≤ p ∧ p ≤ 749
  · exact classify_default_bitPulse_unknown depth hp (by omega)
  · exact classify_default_not_bitPulse_unknown depth hp (by omega)

/-- The word of a pair that fits decodes to the pair's transaction (30_encoding.md R46, R52). -/
theorem decodeWord_wordOfPair {durW : Nat} {t : Pair} (hp : durationFits durW t.pulse = true)
    (hs : spaceFits durW t.space = true) : decodeWord durW (wordOfPair durW t) = .ok (pairInstr t) := by
  rw [decodeWord_of_lt (wordOfPair_lt hp hs), pairOfWord_wordOfPair hp hs]

/-- Settles O19: the row of the classification by the transition table, the corner cases by the bounds and by the
partition of the default profile, the encoding by the word of a pair. -/
theorem pairWithSpacePerformsItsEvent : Obligations.PairWithSpacePerformsItsEvent := by
  refine ⟨fun s p v h => exec_pairInstr_of_coherent h { pulse := p, space := some v },
    fun cfg p v => ⟨fun h => classify_bitPulse_bound h v, classify_header_bound, fun h => classify_oneSpace_bound h p,
      fun h => classify_zeroSpace_bound h p⟩,
    fun depth p v => ⟨fun hmin hmax => ⟨?_, ?_⟩, fun hmin hmax hv => ?_, fun hmin hmax hv => ?_,
      classify_default_extreme depth, rfl, rfl, rfl, rfl⟩,
    fun durW p v hp hv => ?_, by decide⟩
  · exact classify_default_bitPulse_unknown depth (by omega) (by omega)
  · exact classify_default_bitPulse depth (by omega) 10001
  · exact classify_default_not_bitPulse_unknown depth (by omega) (by omega)
  · exact classify_default_bitPulse_unknown depth (by omega) hv
  · exact decodeWord_wordOfPair (t := { pulse := p, space := some v }) (decide_eq_true hp) (decide_eq_true hv)

/-! ### PAIR.T (40_classifier.md R64) -/

/-- A word whose top bit is clear carries its pulse alone, whatever its space field (30_encoding.md R51). -/
theorem decodeWord_without_space {durW p x : Nat} (hp : p < 2 ^ durW) (hx : x < 2 ^ durW) :
    decodeWord durW (x * 2 ^ durW + p) = .ok (.pairT p) := by
  have hlow : x * 2 ^ durW + p < 2 ^ (2 * durW) := by
    calc x * 2 ^ durW + p < (x + 1) * 2 ^ durW := by rw [Nat.succ_mul]; omega
      _ ≤ 2 ^ durW * 2 ^ durW := Nat.mul_le_mul_right _ hx
      _ = 2 ^ (2 * durW) := by rw [two_mul, pow_add]
  have hw : x * 2 ^ durW + p < 2 ^ (2 * durW + 1) := hlow.trans (Nat.pow_lt_pow_succ (by decide))
  have hpair : pairOfWord durW (x * 2 ^ durW + p) = { pulse := p, space := none } := by
    rw [pair_eq_iff, pairOfWord_pulse, pairOfWord_space hw, Nat.div_eq_of_lt hlow]
    exact ⟨by rw [Nat.mul_add_mod_self_right, Nat.mod_eq_of_lt hp], rfl⟩
  rw [decodeWord_of_lt hw, hpair]
  rfl

/-- PAIR.T in a coherent state is the row of Gap or of Unknown, as the pulse is in the bit/gap-pulse window or not. -/
theorem exec_pairT_of_coherent {s : State} (h : Coherent s) (p : Nat) : exec (.pairT p) s =
    .next (tableRow (if within s.cfg.profile.bitPulse p then .gap else .unknown) { pulse := p, space := none } s) := by
  rw [← classify_none]
  exact exec_pairInstr_of_coherent h { pulse := p, space := none }

/-- Settles O20: with an absent space the bit/gap-pulse window alone decides between the rows of Gap and Unknown. -/
theorem timedOutPairIsGapOrUnknown : Obligations.TimedOutPairIsGapOrUnknown := by
  refine ⟨fun s p h => ⟨fun hp => ?_, fun hp => ?_⟩, fun depth => ⟨rfl, rfl, rfl, rfl, rfl⟩,
    fun durW p x hp hx => decodeWord_without_space hp hx, by decide⟩
  · rw [exec_pairT_of_coherent h, if_pos ((within_iff _ p).2 hp)]
    rfl
  · rw [exec_pairT_of_coherent h, if_neg (mt (within_iff _ p).1 hp)]
    rfl

end Sys2Proof.Machine
end

section
/-! The eighth bit and the stored bit count (41_accumulator.md R83, R84, R85). The machine's side is
`bitEvent_of_coherent`: in a coherent state a Bit event is the BIT row of the transition table. -/

namespace Sys2Proof.Machine

/-- BIT0 in a coherent state answers the BIT row of 0 (41_accumulator.md R81). -/
theorem exec_bit0_of_coherent {s : State} (h : Coherent s) : exec .bit0 s = .next (tableBit 0 s) :=
  accStep_of_coherent h .bit0 { pulse := 0, space := none }

/-- BIT1 in a coherent state answers the BIT row of 1 (41_accumulator.md R82). -/
theorem exec_bit1_of_coherent {s : State} (h : Coherent s) : exec .bit1 s = .next (tableBit 1 s) :=
  accStep_of_coherent h .bit1 { pulse := 0, space := none }

/-- The BIT row of the eighth bit with room (41_accumulator.md R83). -/
theorem tableBit_of_room {s : State} (h7 : s.bitCount.toNat = 7) (hr : TableRoom s) (v : Bit) :
    tableBit v s =
      { s with bitCount := 0, bitBuffer := 0, mem := s.mem ++ [(s.msgLen, tableByte v s)], msgLen := s.msgLen + 1,
               trace := s.trace ++ [.bitDecoded v, .byteAssembled (tableByte v s)] } := by
  rw [tableBit, if_neg (by omega), if_pos hr]

/-- The BIT row of the eighth bit on a full buffer (41_accumulator.md R84). -/
theorem tableBit_of_full {s : State} (h7 : s.bitCount.toNat = 7) (hr : ¬ TableRoom s) (v : Bit) :
    tableBit v s =
      { s with bitCount := 0, bitBuffer := 0, ovf := true, faultRecord := some .messageOverflow,
               trace := s.trace ++ [.bitDecoded v, .overflow (tableByte v s)] } := by
  rw [tableBit, if_neg (by omega), if_neg hr]

/-- The eighth bit with room appends its byte to the message in list form (41_accumulator.md R83). -/
theorem message_tableBit_of_room {s : State} (h7 : s.bitCount.toNat = 7) (hr : TableRoom s) (v : Bit) :
    message (tableBit v s) = message s ++ [tableByte v s] := by
  rw [tableBit_of_room h7 hr]
  exact List.map_append

/-- Settles O14: both Bit events are BIT rows, and with the count at 7 and room the row stores the byte.
`tableByte` is the statement's `2*bit_buffer + v` by definition. -/
theorem eighthBitStoresByte : Obligations.EighthBitStoresByte := by
  rintro s h h7 hr _ _ rfl rfl
  have hroom : TableRoom s := (tableRoom_iff h).2 ((hasRoom_true_iff s).2 hr)
  exact ⟨⟨_, exec_bit0_of_coherent h, message_tableBit_of_room h7 hroom 0, tableBit_of_room h7 hroom 0⟩,
    ⟨_, exec_bit1_of_coherent h, message_tableBit_of_room h7 hroom 1, tableBit_of_room h7 hroom 1⟩⟩

/-- A buffer whose length has reached its depth has no room (41_accumulator.md R84). -/
theorem not_tableRoom_of_full {s : State} {d : Nat} (h : Coherent s) (hd : s.cfg.msgDepth = some d)
    (hlen : s.msgLen = d) : ¬ TableRoom s := fun hr => by
  have hlt := hr d hd
  rw [message_length h] at hlt
  omega

/-- The eighth bit on a full buffer leaves the length (41_accumulator.md R84). -/
theorem tableBit_msgLen_of_full {s : State} (h7 : s.bitCount.toNat = 7) (hr : ¬ TableRoom s) (v : Bit) :
    (tableBit v s).msgLen = s.msgLen := by
  rw [tableBit_of_full h7 hr]

/-- Settles O15: with the count at 7 and no room the BIT row drops the byte. -/
theorem eighthBitOnFullBufferDropsByte : Obligations.EighthBitOnFullBufferDropsByte := by
  intro s d h h7 hd hlen
  have hfull := not_tableRoom_of_full h hd hlen
  exact ⟨⟨_, exec_bit0_of_coherent h, (tableBit_msgLen_of_full h7 hfull 0).trans hlen, tableBit_of_full h7 hfull 0⟩,
    ⟨_, exec_bit1_of_coherent h, (tableBit_msgLen_of_full h7 hfull 1).trans hlen, tableBit_of_full h7 hfull 1⟩⟩

/-- Every BIT row advances the stored count modulo 8 (41_accumulator.md R85). -/
theorem tableBit_bitCount_toNat (v : Bit) (s : State) :
    (tableBit v s).bitCount.toNat = (s.bitCount.toNat + 1) % 8 := by
  have hcount := s.bitCount.isLt
  by_cases hc : s.bitCount.toNat ≤ 6
  · rw [tableBit, if_pos hc]
    exact BitVec.toNat_add s.bitCount 1
  · have h7 : s.bitCount.toNat = 7 := by omega
    by_cases hr : TableRoom s
    · rw [tableBit_of_room h7 hr, h7]
      rfl
    · rw [tableBit_of_full h7 hr, h7]
      rfl

/-- A BIT row reports a completed byte exactly when it started with the count at 7 (41_accumulator.md R85). -/
theorem tableBit_completes_iff (v : Bit) (s : State) : ∃ es, (tableBit v s).trace = s.trace ++ es
    ∧ ((∃ b, .byteAssembled b ∈ es ∨ .overflow b ∈ es) ↔ s.bitCount.toNat = 7) := by
  obtain ⟨es, htrace, -, ⟨rfl, hc⟩ | ⟨⟨b, rfl | rfl⟩, h7⟩⟩ := tableBit_trace v s
  · exact ⟨_, htrace, iff_of_false (by simp) (by omega)⟩
  · exact ⟨_, htrace, iff_of_true ⟨b, .inl (by simp)⟩ h7⟩
  · exact ⟨_, htrace, iff_of_true ⟨b, .inr (by simp)⟩ h7⟩

/-- The row's new count is 0 exactly when it started with the count at 7 (41_accumulator.md R85). -/
theorem tableBit_bitCount_eq_zero_iff (v : Bit) (s : State) :
    (tableBit v s).bitCount.toNat = 0 ↔ s.bitCount.toNat = 7 := by
  have hcount := s.bitCount.isLt
  rw [tableBit_bitCount_toNat]
  omega

/-- Settles O23: both Bit events are BIT rows, and 7 is the one count whose successor is 0 modulo 8. -/
theorem storedCountAdvancesModEight : Obligations.StoredCountAdvancesModEight := by
  intro s i h hi
  obtain ⟨v, hexec⟩ : ∃ v, exec i s = .next (tableBit v s) := by
    obtain rfl | rfl := hi
    · exact ⟨0, exec_bit0_of_coherent h⟩
    · exact ⟨1, exec_bit1_of_coherent h⟩
  obtain ⟨es, htrace, hcomplete⟩ := tableBit_completes_iff v s
  exact ⟨_, es, hexec, htrace, tableBit_bitCount_toNat v s,
    hcomplete.trans (tableBit_bitCount_eq_zero_iff v s).symm⟩

end Sys2Proof.Machine
end

section
/-! GAP, HEADER and UNKNOWN with their whole next state (42_message_fsm.md R90, R91, R92). In a coherent state each is its
row of the transition table; only the GAP row lists its events in another grouping than R90. -/

namespace Sys2Proof.Machine

/-- The GAP row with R90's events as one list: the end of the message, the discarded bits if any, the message. -/
theorem tableGap_eq_clear_with_report (sp : Option Nat) (s : State) : tableGap sp s =
    { s with bitCount := 0, bitBuffer := 0, mem := [], msgLen := 0, ovf := false,
             trace := s.trace ++ [.gapSeen sp] ++ (if s.bitCount = 0 then [] else [.discardedBits s.bitCount])
               ++ [.message (message s) s.ovf] } := by
  have htrace := tableGap_trace sp s
  rw [List.append_cons, ← List.append_assoc] at htrace
  rw [← htrace]
  rfl

/-- Settles O16: GAP is the GAP row, whose events are R90's in R90's order. -/
theorem gapEmitsMessageAndClears : Obligations.GapEmitsMessageAndClears := by
  intro s sp h
  rw [exec_gap_eq_tableGap h, tableGap_eq_clear_with_report]

/-- Settles O17: HEADER is the row of a Header, which adds its event to the output; the row reads no pair. -/
theorem headerOnlyReports : Obligations.HeaderOnlyReports :=
  fun _ h => accStep_of_coherent h .header { pulse := 0, space := none }

/-- Settles O18: UNKNOWN is the row of an Unknown on its raw pair. -/
theorem unknownOnlyReports : Obligations.UnknownOnlyReports :=
  fun _ p sp h => accStep_of_coherent h .unknown { pulse := p, space := sp }

end Sys2Proof.Machine
end

section
/-! The first transaction after reset (70_reset_and_hazards.md R131, R133): the launch meets the invariants, so a word is
performed as the row of its classification, and a BIT row without pending bits starts a byte. -/

namespace Sys2Proof.Machine

/-- The launch meets the invariants whatever the configuration and the inputs (70_reset_and_hazards.md R131). -/
theorem coherent_launch (cfg : Config) (ts : List Input) : Coherent (launch cfg ts) :=
  ⟨Nat.two_pow_pos 0, rfl, fun d _ => Nat.zero_le d, nofun⟩

/-- A BIT row with no bit pending starts a byte: one bit, of the event's value (41_accumulator.md R80). -/
theorem tableBit_of_no_pending {s : State} (hc : s.bitCount = 0) (hb : s.bitBuffer = 0) (v : Bit) :
    (tableBit v s).bitCount = 1 ∧ (tableBit v s).bitBuffer = v.setWidth 8 := by
  rw [tableBit, if_pos (by simp [hc])]
  refine ⟨?_, BitVec.eq_of_toNat_eq ?_⟩
  · simp [hc]
  · simp [tableByte, hb]

/-- Settles O56: the step answers the row of the word's classification, and the launch has no bit pending. -/
theorem firstTransactionMayBeAnyWord : Obligations.FirstTransactionMayBeAnyWord := by
  intro cfg w ts hw
  -- the launch with its first input consumed is again a launch
  have hrow (v : Bit) := tableBit_of_no_pending (s := launch cfg ts) rfl rfl v
  have hclass := inputClass_port (g := { rst := false, iValid := true, word := w }) rfl rfl hw
  refine ⟨_, step_word (coherent_launch cfg _) rfl hw hclass rfl, fun h0 => ?_, fun h1 => ?_⟩
  · rw [Option.some.inj (hclass.symm.trans h0)]
    exact hrow 0
  · rw [Option.some.inj (hclass.symm.trans h1)]
    exact hrow 1

end Sys2Proof.Machine
end

section
/-! What a row of the transition table changes and emits, and what an instruction, an input and a step answer in terms
of the rows (42_message_fsm.md R94, R95). The later proofs about the machine go through these lemmas. -/

namespace Sys2Proof.Machine

/-! ### The classifications, the two Bits taken together -/

/-- A classification is a Bit exactly when it is the event of a bit value (30_encoding.md R48). -/
theorem isBit_iff_bitClass (c : Classification) : c = .bit0 ∨ c = .bit1 ↔ ∃ v, c = bitClass v := by
  constructor
  · rintro (rfl | rfl)
    · exact ⟨0, rfl⟩
    · exact ⟨1, rfl⟩
  · rintro ⟨v, rfl⟩
    unfold bitClass
    split_ifs
    · exact .inr rfl
    · exact .inl rfl

/-- The case split of the rows: UNKNOWN, HEADER, the Bit of a value, GAP. -/
theorem class_cases (c : Classification) : c = .unknown ∨ c = .header ∨ (∃ v, c = bitClass v) ∨ c = .gap := by
  rw [← isBit_iff_bitClass]
  cases c <;> simp

/-- The Bit of a value is neither UNKNOWN, HEADER nor GAP. -/
theorem bitClass_ne (v : Bit) : bitClass v ≠ .unknown ∧ bitClass v ≠ .header ∧ bitClass v ≠ .gap := by
  unfold bitClass
  split_ifs <;> decide

/-- A bit value is that of BIT0 or that of BIT1. -/
theorem bit_eq_zero_or_one : ∀ v : Bit, v = 0 ∨ v = 1 := by decide

/-- The row of the Bit of a value is the BIT row of that value. -/
theorem tableRow_bitClass (v : Bit) (t : Pair) (s : State) : tableRow (bitClass v) t s = tableBit v s := by
  obtain rfl | rfl := bit_eq_zero_or_one v <;> rfl

/-- The BIT row with room left in the byte (41_accumulator.md R80). -/
theorem tableBit_of_shift {s : State} (hc : s.bitCount.toNat ≤ 6) (v : Bit) : tableBit v s =
    { s with bitCount := s.bitCount + 1, bitBuffer := tableByte v s, trace := s.trace ++ [.bitDecoded v] } :=
  if_pos hc

/-- Which of the three BIT rows is taken: shift, eighth bit with room, eighth bit on a full buffer. -/
theorem bitRow_cases (s : State) : s.bitCount.toNat ≤ 6 ∨ (s.bitCount.toNat = 7 ∧ TableRoom s)
    ∨ (s.bitCount.toNat = 7 ∧ ¬ TableRoom s) := by
  have hlt := s.bitCount.isLt
  obtain hc | h7 : s.bitCount.toNat ≤ 6 ∨ s.bitCount.toNat = 7 := by omega
  · exact .inl hc
  · exact .inr ((em (TableRoom s)).imp (⟨h7, ·⟩) (⟨h7, ·⟩))

/-! ### The events of a row -/

/-- The events of the BIT rows. -/
def bitReport (v : Bit) (s : State) : List Event :=
  if s.bitCount.toNat ≤ 6 then [.bitDecoded v]
  else if TableRoom s then [.bitDecoded v, .byteAssembled (tableByte v s)]
  else [.bitDecoded v, .overflow (tableByte v s)]

/-- The events of the GAP rows. -/
def gapReport (space : Option Nat) (s : State) : List Event :=
  .gapSeen space :: ((if s.bitCount = 0 then [] else [.discardedBits s.bitCount]) ++ [.message (message s) s.ovf])

/-- The events of the row of an event. -/
def rowEvents (c : Classification) (t : Pair) (s : State) : List Event :=
  match c with
  | .bit0    => bitReport 0 s
  | .bit1    => bitReport 1 s
  | .gap     => gapReport t.space s
  | .header  => [.headerSeen]
  | .unknown => [.unknownPair t.pulse t.space]

theorem rowEvents_bitClass (v : Bit) (t : Pair) (s : State) : rowEvents (bitClass v) t s = bitReport v s := by
  obtain rfl | rfl := bit_eq_zero_or_one v <;> rfl

theorem bitReport_of_shift {s : State} (hc : s.bitCount.toNat ≤ 6) (v : Bit) : bitReport v s = [.bitDecoded v] :=
  if_pos hc

theorem bitReport_of_room {s : State} (h7 : s.bitCount.toNat = 7) (hr : TableRoom s) (v : Bit) :
    bitReport v s = [.bitDecoded v, .byteAssembled (tableByte v s)] := by
  rw [bitReport, if_neg (by omega), if_pos hr]

theorem bitReport_of_full {s : State} (h7 : s.bitCount.toNat = 7) (hr : ¬ TableRoom s) (v : Bit) :
    bitReport v s = [.bitDecoded v, .overflow (tableByte v s)] := by
  rw [bitReport, if_neg (by omega), if_neg hr]

/-- A row reads neither the output nor the output port (40_classifier.md R66): from a state with another output it answers
the same but for that output, to which its events are appended. -/
theorem tableRow_withOutput (c : Classification) (t : Pair) (es : List Event) (r : Option OutRecord) (s : State) :
    tableRow c t (withOutput es r s) = withOutput (es ++ rowEvents c t s) r (tableRow c t s) := by
  obtain rfl | rfl | ⟨v, rfl⟩ | rfl := class_cases c
  · rfl
  · rfl
  · rw [tableRow_bitClass, tableRow_bitClass, rowEvents_bitClass]
    obtain hc | ⟨h7, hr⟩ | ⟨h7, hr⟩ := bitRow_cases s
    · rw [tableBit_of_shift hc, bitReport_of_shift hc, tableBit_of_shift (s := withOutput es r s) hc]
      rfl
    · rw [tableBit_of_room h7 hr, bitReport_of_room h7 hr, tableBit_of_room (s := withOutput es r s) h7 hr]
      rfl
    · rw [tableBit_of_full h7 hr, bitReport_of_full h7 hr, tableBit_of_full (s := withOutput es r s) h7 hr]
      rfl
  · exact congrArg (fun es => { tableGap t.space s with trace := es, record := r })
      (tableGap_trace t.space (withOutput es r s))

/-- The output after a row is the output before it and the row's events. -/
@[simp] theorem tableRow_trace (c : Classification) (t : Pair) (s : State) :
    (tableRow c t s).trace = s.trace ++ rowEvents c t s := by
  have h := congrArg State.trace (tableRow_withOutput c t s.trace s.record s)
  exact h

/-- A row leaves the output port. -/
@[simp] theorem tableRow_record (c : Classification) (t : Pair) (s : State) : (tableRow c t s).record = s.record := by
  have h := congrArg State.record (tableRow_withOutput c t s.trace s.record s)
  exact h

/-- A row leaves the constants (10_state.md R16). -/
@[simp] theorem tableRow_cfg (c : Classification) (t : Pair) (s : State) : (tableRow c t s).cfg = s.cfg := by
  have hbit (v : Bit) : (tableBit v s).cfg = s.cfg := by
    unfold tableBit
    split_ifs <;> rfl
  cases c with
  | unknown => rfl
  | header => rfl
  | bit0 => exact hbit 0
  | bit1 => exact hbit 1
  | gap => rfl

/-- A row reads no input that the host has still to present. -/
theorem tableRow_setInput (c : Classification) (t : Pair) (ts : List Input) (s : State) :
    tableRow c t (setInput ts s) = setInput ts (tableRow c t s) := by
  have hbit (v : Bit) : tableBit v (setInput ts s) = setInput ts (tableBit v s) := by
    simp only [tableBit, apply_ite (setInput ts)]
    rfl
  cases c with
  | unknown => rfl
  | header => rfl
  | bit0 => exact hbit 0
  | bit1 => exact hbit 1
  | gap => rfl

/-! ### An instruction is an event -/

/-- The classification an instruction performs: a transaction's own, an event's name (40_classifier.md R63, R64). -/
def instrClass (cfg : Config) (i : Instr) : Classification :=
  match i with
  | .pairS p v   => classify cfg p (some v)
  | .pairT p     => classify cfg p none
  | .unknown _ _ => .unknown
  | .header      => .header
  | .bit0        => .bit0
  | .bit1        => .bit1
  | .gap _       => .gap

/-- The pair an instruction carries; an event that carries none has any. -/
def instrPair (i : Instr) : Pair :=
  match i with
  | .pairS p v    => { pulse := p, space := some v }
  | .pairT p      => { pulse := p, space := none }
  | .unknown p sp => { pulse := p, space := sp }
  | .header       => { pulse := 0, space := none }
  | .bit0         => { pulse := 0, space := none }
  | .bit1         => { pulse := 0, space := none }
  | .gap sp       => { pulse := 0, space := sp }

/-- Every instruction is the accumulator's step on its classification and pair (42_message_fsm.md R95). -/
theorem exec_eq_accStep (i : Instr) (s : State) : exec i s = accStep (instrClass s.cfg i) (instrPair i) s := by
  cases i <;> rfl

/-- An event in a state that violates the invariants is refused (70_reset_and_hazards.md R131). -/
theorem accStep_of_not_coherent {s : State} (h : ¬ Coherent s) (c : Classification) (t : Pair) :
    accStep c t s = .refused .incoherentState := by
  cases c <;>
    simp only [accStep, execUnknown, execHeader, execBit0, execBit1, execGap, whenCoherent_of_not h]

/-- A next state of an event is its row, answered in a coherent state. -/
theorem accStep_next_row {c : Classification} {t : Pair} {s u : State} (h : accStep c t s = .next u) :
    Coherent s ∧ u = tableRow c t s := by
  have hs := accStep_next_coherent h
  rw [accStep_of_coherent hs, Host.Outcome.next.injEq] at h
  exact ⟨hs, h.symm⟩

/-- An instruction in a coherent state answers the row of its classification. -/
theorem exec_of_coherent {s : State} (h : Coherent s) (i : Instr) :
    exec i s = .next (tableRow (instrClass s.cfg i) (instrPair i) s) :=
  (exec_eq_accStep i s).trans (accStep_of_coherent h _ _)

/-- An instruction in a state that violates the invariants is refused (93 U13). -/
theorem exec_of_not_coherent {s : State} (h : ¬ Coherent s) (i : Instr) : exec i s = .refused .incoherentState :=
  (exec_eq_accStep i s).trans (accStep_of_not_coherent h _ _)

/-- A next state of an instruction is the row of its classification. -/
theorem eq_row_of_exec {i : Instr} {s u : State} (h : exec i s = .next u) :
    u = tableRow (instrClass s.cfg i) (instrPair i) s :=
  (accStep_next_row ((exec_eq_accStep i s).symm.trans h)).2

/-! ### An input and a step -/

/-- An input is a reset, no transaction, or a word or event to be decoded, in every state alike (30_encoding.md R53). -/
theorem performInput_shape (x : Input) :
    (∃ g, x = .port g ∧ g.rst = true ∧ ∀ s, performInput x s = .next (resetStep s))
    ∨ (∃ g, x = .port g ∧ g.rst = false ∧ g.iValid = false ∧ ∀ s, performInput x s = .next (idleStep s))
    ∨ ((∀ g, x = .port g → g.rst = false ∧ g.iValid = true) ∧ ∀ s, performInput x s = runDecoded x s) := by
  obtain ⟨⟨rst, iValid, w⟩⟩ | ⟨code, t⟩ := x
  · cases rst with
    | true => exact .inl ⟨_, rfl, rfl, fun s => rfl⟩
    | false =>
      cases iValid with
      | false => exact .inr (.inl ⟨_, rfl, rfl, rfl, fun s => rfl⟩)
      | true =>
        refine .inr (.inr ⟨?_, fun s => rfl⟩)
        rintro _ ⟨⟩
        exact ⟨rfl, rfl⟩
  · exact .inr (.inr ⟨nofun, fun s => rfl⟩)

/-- What an input that answers a next state has done: it asked for no instruction, or the row of its classification was
performed on its pair and the record of the row's events presented. -/
theorem performInput_next_row {x : Input} {s u : State} (h : performInput x s = .next u) :
    (inputClass s.cfg x = none ∧ (u = resetStep s ∨ u = idleStep s))
    ∨ ∃ c, inputClass s.cfg x = some c ∧ Coherent s
        ∧ u = setRecord (some (recordOf (pairOfInput s.cfg.durW x) (rowEvents c (pairOfInput s.cfg.durW x) s)))
          (tableRow c (pairOfInput s.cfg.durW x) s) := by
  obtain ⟨g, rfl, hr, hu⟩ | ⟨g, rfl, hr, hv, hu⟩ | ⟨c, v, hc, hv, hu⟩ := performInput_next h
  · exact .inl ⟨by simp [inputClass, hr], .inl hu⟩
  · exact .inl ⟨by simp [inputClass, hv], .inr hu⟩
  · obtain ⟨hs, rfl⟩ := accStep_next_row hv
    rw [tableRow_trace, List.drop_left] at hu
    exact .inr ⟨c, hc, hs, hu⟩

/-- What a step that answers a next state has done, apart from which input asked for it: nothing, a reset, or a row in a
coherent state and a record presented. -/
theorem step_next_row {s u : State} (h : step s = .next u) : ∃ ts, u = idleStep (setInput ts s)
    ∨ u = resetStep (setInput ts s)
    ∨ (Coherent s ∧ ∃ c t r, u = setRecord r (tableRow c t (setInput ts s))) := by
  obtain ⟨-, rfl⟩ | ⟨x, ts, -, hx⟩ := step_next h
  · exact ⟨s.input, .inl rfl⟩
  · refine ⟨ts, ?_⟩
    obtain ⟨-, hreset | hidle⟩ | ⟨c, -, hs, hrow⟩ := performInput_next_row hx
    · exact .inr (.inl hreset)
    · exact .inl hidle
    · exact .inr (.inr ⟨hs, c, _, _, hrow⟩)

/-- A step performs its next input on the state with that input consumed. -/
theorem step_cons {s : State} {x : Input} {ts : List Input} (h : s.input = x :: ts) :
    step s = performInput x (setInput ts s) := by
  rw [step, h]

end Sys2Proof.Machine
end

section
/-! The encodings both ways: codes of format E, reserved codes, the encoder, the words the spec writes out and the
pseudo-operations (30_encoding.md R45, R48, R51, R56). -/

namespace Sys2Proof.Machine

/-! ### The codes of format E (30_encoding.md R48) -/

/-- The code of a classification names it. -/
@[simp] theorem classOfCode_codeOfClass (c : Classification) : classOfCode (codeOfClass c).toNat = some c := by
  cases c <;> rfl

/-- No code above 4 names a classification (30_encoding.md R51). -/
theorem classOfCode_of_gt {code : Nat} (h : 4 < code) : classOfCode code = none := by
  obtain ⟨k, rfl⟩ : ∃ k, code = k + 5 := Nat.exists_eq_add_of_le' h
  rfl

/-- A code that names a classification is its code: the five codes one by one, and none above. -/
theorem eq_codeOfClass_of_classOfCode {code : Nat} {c : Classification} (h : classOfCode code = some c) :
    code = (codeOfClass c).toNat := by
  have hle : code ≤ 4 := by
    by_contra hgt
    rw [classOfCode_of_gt (by omega)] at h
    cases h
  interval_cases code <;> cases h <;> rfl

/-- The code of a classification is at most 4: the classifier produces no reserved code (30_encoding.md R51). -/
theorem codeOfClass_toNat_le (c : Classification) : (codeOfClass c).toNat ≤ 4 := by
  cases c <;> decide

/-- Settles O5: the codes both ways. -/
theorem classificationCodes : Obligations.ClassificationCodes := by
  refine ⟨fun code c => ⟨eq_codeOfClass_of_classOfCode, ?_⟩, rfl, rfl, rfl, rfl, rfl⟩
  rintro rfl
  exact classOfCode_codeOfClass c

/-! ### Decoding (30_encoding.md R45, R51) -/

/-- An event whose pair fits decodes to its instruction. -/
theorem decodeInput_eventInput {durW : Nat} {t : Pair} (c : Classification) (hp : durationFits durW t.pulse = true)
    (hs : spaceFits durW t.space = true) : decodeInput durW (eventInput c t) = .ok (eventInstr c t) := by
  simp [decodeInput, eventInput, decodeEvent, hp, hs]

/-- Settles O1: a transaction by the word of its pair, an event by its code. -/
theorem decodeOfEncodeIsIdentity : Obligations.DecodeOfEncodeIsIdentity := by
  intro durW i h
  have hzero := durationFits_zero durW
  cases i with
  | pairS p v =>
    obtain ⟨hp, hv⟩ := Bool.and_eq_true_iff.1 h
    exact decodeWord_wordOfPair (t := { pulse := p, space := some v }) hp hv
  | pairT p => exact decodeWord_wordOfPair (t := { pulse := p, space := none }) h rfl
  | unknown p sp =>
    obtain ⟨hp, hs⟩ := Bool.and_eq_true_iff.1 h
    exact decodeInput_eventInput .unknown (t := { pulse := p, space := sp }) hp hs
  | header => exact decodeInput_eventInput .header hzero rfl
  | bit0 => exact decodeInput_eventInput .bit0 hzero rfl
  | bit1 => exact decodeInput_eventInput .bit1 hzero rfl
  | gap sp => exact decodeInput_eventInput .gap (t := { pulse := 0, space := sp }) hzero h

/-- A code above 4 is refused by the format E decoder. -/
theorem decodeEvent_of_gt {code : Nat} (h : 4 < code) (durW : Nat) (t : Pair) :
    decodeEvent durW code t = .error .reservedCode := by
  rw [decodeEvent, classOfCode_of_gt h]

/-- Settles O4: the ignored field by the fields of a word, the reserved codes by the decoder, and a step on one by the
refusal to decode. -/
theorem reservedAndIgnoredEncodings : Obligations.ReservedAndIgnoredEncodings := by
  refine ⟨fun durW p x hp hx => decodeWord_without_space hp hx,
    fun durW code t hcode => decodeEvent_of_gt (by omega) durW t, fun s code t ts hcode hin => ?_,
    fun cfg p s => codeOfClass_toNat_le _⟩
  have hdec : decodeInput s.cfg.durW (.event code t) = .error .reservedCode := decodeEvent_of_gt (by omega) _ t
  rw [step_cons hin]
  exact runDecoded_of_error (s := setInput ts s) hdec

/-- Settles O6: each word is a literal, decoded by evaluation. -/
theorem specWordsDecode : Obligations.SpecWordsDecode := by
  unfold Obligations.SpecWordsDecode
  decide

/-! ### The pseudo-operations (30_encoding.md R56) -/

/-- ONE and ZERO classify as the Bit they write. -/
theorem classify_pseudoBit (depth : Option Nat) (v : Bit) :
    classify (defaultConfig depth) (if v = 1#1 then pseudoOne else pseudoZero).pulse
      (if v = 1#1 then pseudoOne else pseudoZero).space = bitClass v := by
  unfold bitClass
  split_ifs <;> rfl

/-- BYTE classifies as the bits of its byte. -/
theorem map_classify_pseudoByte (depth : Option Nat) (b : Byte) :
    (pseudoByte b).map (fun t => classify (defaultConfig depth) t.pulse t.space) = (byteBits b).map bitClass := by
  rw [pseudoByte, List.map_map]
  exact List.map_congr_left fun v _ => classify_pseudoBit depth v

@[simp] theorem byteBits_length (b : Byte) : (byteBits b).length = 8 := rfl

/-- The bits of a byte, most significant first, are its value (10_state.md R12). -/
@[simp] theorem bitsValue_byteBits : ∀ b : Byte, bitsValue (byteBits b) = b.toNat := by decide

/-- Settles O12: the six fixed pairs by evaluation, BYTE bit by bit. -/
theorem pseudoOperationsClassify : Obligations.PseudoOperationsClassify := fun depth =>
  ⟨rfl, rfl, rfl, rfl, rfl, rfl, fun b =>
    ⟨map_classify_pseudoByte depth b, byteBits_length b, bitsValue_byteBits b⟩⟩

end Sys2Proof.Machine
end

section
/-! The invariants of the machine (10_state.md R23, 60_exceptions.md R109): each holds at launch, is kept by every row,
and so by every step; then construction. -/

namespace Sys2Proof.Machine

/-! ### The invariants of 10_state.md R23 -/

/-- A state with the five items at their reset values meets the invariants, whatever else it holds. -/
theorem coherent_toInitial (s : State) : Coherent (toInitial s) :=
  ⟨Nat.two_pow_pos 0, rfl, fun d _ => Nat.zero_le d, nofun⟩

/-- `2*buf + v` of a coherent state is not reduced modulo 256 (41_accumulator.md R86). -/
theorem tableByte_toNat {s : State} (h : Coherent s) (v : Bit) :
    (tableByte v s).toNat = 2 * s.bitBuffer.toNat + v.toNat := by
  rw [← shiftIn_eq_tableByte h, shiftIn_toNat _ _ (bitBuffer_lt h)]

/-- The BIT rows keep the invariants: a shift doubles the bound of the buffer, a store extends the cells by the next
index where there is room, a drop needs a finite buffer. -/
theorem coherent_tableBit {s : State} (h : Coherent s) (v : Bit) : Coherent (tableBit v s) := by
  have ⟨hbuf, hcells, hdepth, hovf⟩ := h
  obtain hc | ⟨h7, hr⟩ | ⟨h7, hr⟩ := bitRow_cases s
  · rw [tableBit_of_shift hc]
    refine ⟨?_, hcells, hdepth, hovf⟩
    have hcount : (s.bitCount + 1).toNat = s.bitCount.toNat + 1 := by
      rw [BitVec.toNat_add]
      exact Nat.mod_eq_of_lt (Nat.lt_succ_of_le (Nat.succ_le_succ hc))
    have hv := v.isLt
    simp only [hcount, tableByte_toNat h, pow_succ]
    omega
  · have hlen : ∀ d ∈ s.cfg.msgDepth, s.msgLen < d := message_length h ▸ hr
    rw [tableBit_of_room h7 hr]
    refine ⟨Nat.two_pow_pos 0, ?_, hlen, hovf⟩
    simp only [List.map_append, hcells, List.map_cons, List.map_nil, List.range_succ]
  · rw [tableBit_of_full h7 hr]
    refine ⟨Nat.two_pow_pos 0, hcells, hdepth, fun _ => ?_⟩
    obtain ⟨d, hd, -⟩ : ∃ d, ∃ _ : d ∈ s.cfg.msgDepth, ¬ (message s).length < d := by
      simpa only [TableRoom, not_forall] using hr
    exact Option.isSome_iff_exists.2 ⟨d, hd⟩

/-- Every row keeps the invariants. -/
theorem coherent_tableRow {s : State} (h : Coherent s) (c : Classification) (t : Pair) : Coherent (tableRow c t s) := by
  cases c with
  | unknown => exact h
  | header => exact h
  | bit0 => exact coherent_tableBit h 0
  | bit1 => exact coherent_tableBit h 1
  | gap => exact coherent_toInitial { s with trace := _ }

/-- Settles O41: a reset restores the initial state, a row keeps the invariants, and neither the record nor the inputs
are part of them. -/
theorem stepKeepsCoherent : Obligations.StepKeepsCoherent := by
  intro s t h hstep
  obtain ⟨ts, rfl | rfl | ⟨-, c, p, r, rfl⟩⟩ := step_next_row hstep
  · exact h
  · exact coherent_toInitial (setInput ts s)
  · exact coherent_tableRow (s := setInput ts s) h c p

/-- Settles O42: a row is answered in a coherent state and leaves one, whose cells are in canonical form. -/
theorem stepKeepsMemoryCanonical : Obligations.StepKeepsMemoryCanonical := by
  intro s t h hstep
  obtain ⟨ts, rfl | rfl | ⟨hs, c, p, r, rfl⟩⟩ := step_next_row hstep
  · exact h
  · exact List.Pairwise.nil
  · exact coherent_memory_wf (coherent_tableRow (s := setInput ts s) hs c p)

/-- Settles O43: no row writes the constants. -/
theorem stepKeepsConfiguration : Obligations.StepKeepsConfiguration := by
  intro s t hstep
  obtain ⟨ts, rfl | rfl | ⟨-, c, p, r, rfl⟩⟩ := step_next_row hstep
  · rfl
  · rfl
  · exact tableRow_cfg c p (setInput ts s)

/-- Settles O48: the invariant bounds `msg_len` by the depth, and `log2` is the least number of bits but one. -/
theorem msgLenFitsLenW : Obligations.MsgLenFitsLenW := by
  intro s d n h hd hpos hn
  obtain ⟨-, -, hdepth, -⟩ := h
  have hlog : n = Nat.log2 d + 1 := by
    rw [lenWidth, hd] at hn
    exact (Option.some.inj hn).symm
  subst hlog
  exact ⟨(hdepth d hd).trans_lt Nat.lt_log2_self, fun m hm => (Nat.log2_lt hpos.ne').2 hm⟩

/-! ### The fault of the run (60_exceptions.md R109) -/

@[simp] theorem noOverflow_append (es fs : List Event) :
    noOverflow (es ++ fs) = (noOverflow es && noOverflow fs) := List.all_append

/-- Where the fault of the run is recorded: an eighth bit on a full buffer, which emits an Overflow event; every other
row keeps the record and emits none. -/
theorem tableRow_fault (c : Classification) (t : Pair) (s : State) :
    ((tableRow c t s).faultRecord = s.faultRecord ∧ noOverflow (rowEvents c t s) = true)
    ∨ ((c = .bit0 ∨ c = .bit1) ∧ s.bitCount.toNat = 7 ∧ ¬ TableRoom s
      ∧ (tableRow c t s).faultRecord = some .messageOverflow ∧ noOverflow (rowEvents c t s) = false) := by
  obtain rfl | rfl | ⟨v, rfl⟩ | rfl := class_cases c
  · exact .inl ⟨rfl, rfl⟩
  · exact .inl ⟨rfl, rfl⟩
  · rw [tableRow_bitClass, rowEvents_bitClass, isBit_iff_bitClass]
    obtain hc | ⟨h7, hr⟩ | ⟨h7, hr⟩ := bitRow_cases s
    · rw [tableBit_of_shift hc, bitReport_of_shift hc]
      exact .inl ⟨rfl, rfl⟩
    · rw [tableBit_of_room h7 hr, bitReport_of_room h7 hr]
      exact .inl ⟨rfl, rfl⟩
    · rw [tableBit_of_full h7 hr, bitReport_of_full h7 hr]
      exact .inr ⟨⟨v, rfl⟩, h7, hr, rfl, rfl⟩
  · refine .inl ⟨rfl, ?_⟩
    simp only [rowEvents, gapReport]
    split_ifs <;> rfl

/-- Settles O45: a row that records the fault emits an Overflow event, and any other leaves both as they were. -/
theorem faultRecordMatchesOverflowEvents : Obligations.FaultRecordMatchesOverflowEvents := by
  intro s t h hstep
  obtain ⟨ts, rfl | rfl | ⟨-, c, p, r, rfl⟩⟩ := step_next_row hstep
  · exact h
  · exact h
  · obtain ⟨hfault, hevents⟩ | ⟨-, -, -, hfault, hevents⟩ := tableRow_fault c p (setInput ts s)
    · simpa [FaultRecordTrue, hfault, hevents] using h
    · simp [FaultRecordTrue, hfault, hevents]

/-- Settles O46: every row keeps the record or records the one fault there is. -/
theorem recordedFaultStays : Obligations.RecordedFaultStays := by
  rintro s t ⟨⟩ h hstep
  obtain ⟨ts, rfl | rfl | ⟨-, c, p, r, rfl⟩⟩ := step_next_row hstep
  · exact h
  · exact h
  · obtain ⟨hfault, -⟩ | ⟨-, -, -, hfault, -⟩ := tableRow_fault c p (setInput ts s)
    · exact hfault.trans h
    · exact hfault

/-- An unbounded buffer always has room. -/
theorem tableRoom_of_unbounded {s : State} (h : s.cfg.msgDepth = none) : TableRoom s := by
  simp [TableRoom, h]

/-- Settles O47: `ovf` by the invariants, and an Overflow event needs a buffer without room. -/
theorem unboundedBufferNeverOverflows : Obligations.UnboundedBufferNeverOverflows := by
  intro s t h hdepth hstep
  have hovf : t.ovf = false := by
    obtain ⟨-, -, -, hfinite⟩ := stepKeepsCoherent s t h hstep
    simpa [stepKeepsConfiguration s t hstep, hdepth] using hfinite
  refine ⟨hovf, ?_⟩
  obtain ⟨ts, rfl | rfl | ⟨-, c, p, r, rfl⟩⟩ := step_next_row hstep
  · exact ⟨rfl, id⟩
  · exact ⟨rfl, id⟩
  · obtain ⟨hfault, hevents⟩ | ⟨-, -, hfull, -, -⟩ := tableRow_fault c p (setInput ts s)
    · exact ⟨hfault, fun hs => by simp [hs, hevents]⟩
    · exact absurd (tableRoom_of_unbounded (s := setInput ts s) hdepth) hfull

/-! ### Launch and construction (70_reset_and_hazards.md R131, R132) -/

/-- Settles O40: the launch state holds no bit, no byte, no event and no fault. -/
theorem launchMeetsInvariants : Obligations.LaunchMeetsInvariants := fun cfg =>
  ⟨coherent_launch cfg [], rfl, iff_of_true rfl rfl, List.Pairwise.nil⟩

/-- The default profile is well formed, whatever the depth (10_state.md R18). -/
theorem profileWellFormed_default (depth : Option Nat) : profileWellFormed (defaultConfig depth) := by
  simp only [profileWellFormed, windowsApart, defaultConfig, defaultProfile]
  decide

/-- The default port of 32 bits holds every default constant (00_scope.md R5). -/
theorem constantsFit_default (depth : Option Nat) : constantsFit (defaultConfig depth) := by
  simp only [constantsFit, windowFits, constantFits, defaultConfig, defaultProfile]
  decide

/-- Settles O49: construction decides by `configFits`, which the default parameters meet. -/
theorem constructionChecksParameters : Obligations.ConstructionChecksParameters := by
  refine ⟨fun cfg h => if_pos h, fun cfg h => if_neg h, fun depth hd => ⟨⟨?_, hd, constantsFit_default depth⟩,
    profileWellFormed_default depth⟩⟩
  simp [defaultConfig]

end Sys2Proof.Machine
end

section
/-! The frames and the next states of the instructions (41_accumulator.md, 42_message_fsm.md R94): what each row leaves
unchanged, and what no row depends on. -/

namespace Sys2Proof.Machine

/-! ### The next states of the events (41_accumulator.md R80, 42_message_fsm.md R94) -/

/-- Settles O13: both Bit events are BIT rows, and with a count of at most 6 the row shifts.
`tableByte` is the statement's `2*bit_buffer + v` by definition. -/
theorem bitShiftsIntoBuffer : Obligations.BitShiftsIntoBuffer := fun _ h hc =>
  ⟨(exec_bit0_of_coherent h).trans (congrArg Host.Outcome.next (tableBit_of_shift hc 0)),
    (exec_bit1_of_coherent h).trans (congrArg Host.Outcome.next (tableBit_of_shift hc 1))⟩

/-- A step whose next input is a reset resets the state with the input consumed (70_reset_and_hazards.md R130). -/
theorem step_of_reset {s : State} {g : Port} {ts : List Input} (hr : g.rst = true) (hin : s.input = .port g :: ts) :
    step s = .next (resetStep (setInput ts s)) := by
  simp only [step_cons hin, performInput, hr, if_true]

/-- Settles O21: an event is its row in a coherent state, and a reset is the table's reset row by definition. -/
theorem transitionTableIsTheMachine : Obligations.TransitionTableIsTheMachine := by
  refine ⟨fun c t s h => ⟨accStep_of_coherent h c t, ?_⟩, fun s g ts => step_of_reset⟩
  rw [exec_eventInstr, accStep_of_coherent h]

/-- Settles O54: the first Gap answers its row, which is an initial state, and the second reports that state. -/
theorem secondGapIsEmpty : Obligations.SecondGapIsEmpty := by
  intro s sp1 sp2 h
  have hfirst : Coherent (tableGap sp1 s) := coherent_tableRow h .gap { pulse := 0, space := sp1 }
  exact ⟨_, _, exec_gap_eq_tableGap h sp1, exec_gap_eq_tableGap hfirst sp2, tableGap_trace sp2 (tableGap sp1 s)⟩

/-! ### The frame of a BIT row -/

/-- A store at `msg_len` leaves every other cell (20_memory.md R31). -/
theorem cellAt_append_ne {s : State} (h : Coherent s) (b : Byte) {a : Nat} (ha : a ≠ s.msgLen) :
    cellAt (s.mem ++ [(s.msgLen, b)]) a = cellAt s.mem a := by
  obtain ⟨-, hcells, -⟩ := h
  rw [← memWrite_at_length hcells, cellAt_memWrite_ne s.mem b ha]

/-- What a BIT row leaves unchanged: the cells other than the one at `msg_len` always; all cells and `msg_len` but where
an eighth bit finds room; `ovf` and the fault record but where it finds the buffer full (41_accumulator.md R83, R84). -/
theorem bitRow_frame {s : State} (h : Coherent s) {c : Classification} (hc : c = .bit0 ∨ c = .bit1) (t : Pair) :
    (∀ a, a ≠ s.msgLen → cellAt (tableRow c t s).mem a = cellAt s.mem a)
    ∧ (¬ (s.bitCount.toNat = 7 ∧ hasRoom s = true) →
      (tableRow c t s).msgLen = s.msgLen ∧ ∀ a, cellAt (tableRow c t s).mem a = cellAt s.mem a)
    ∧ (¬ (s.bitCount.toNat = 7 ∧ hasRoom s = false) →
      (tableRow c t s).ovf = s.ovf ∧ (tableRow c t s).faultRecord = s.faultRecord) := by
  obtain ⟨v, rfl⟩ := (isBit_iff_bitClass c).1 hc
  rw [tableRow_bitClass]
  obtain hc | ⟨h7, hr⟩ | ⟨h7, hr⟩ := bitRow_cases s
  · rw [tableBit_of_shift hc]
    exact ⟨fun _ _ => rfl, fun _ => ⟨rfl, fun _ => rfl⟩, fun _ => ⟨rfl, rfl⟩⟩
  · rw [tableBit_of_room h7 hr]
    exact ⟨fun a => cellAt_append_ne h _, fun hno => absurd ⟨h7, (tableRoom_iff h).1 hr⟩ hno, fun _ => ⟨rfl, rfl⟩⟩
  · have hfull : hasRoom s = false := by rwa [tableRoom_iff h, Bool.not_eq_true] at hr
    rw [tableBit_of_full h7 hr]
    exact ⟨fun _ _ => rfl, fun _ => ⟨rfl, fun _ => rfl⟩, fun hno => absurd ⟨h7, hfull⟩ hno⟩

/-! ### The frames of the instructions -/

/-- Settles O24: each of the two is a report, which adds its event to the output alone. -/
theorem reportingEventsFrame : Obligations.ReportingEventsFrame := by
  rintro s t i (rfl | ⟨p, sp, rfl⟩) h
  · cases eq_row_of_exec h
    exact ⟨rfl, rfl, rfl, rfl, rfl, rfl, rfl, rfl, fun _ => rfl⟩
  · cases eq_row_of_exec h
    exact ⟨rfl, rfl, rfl, rfl, rfl, rfl, rfl, rfl, fun _ => rfl⟩

/-- Settles O25: both Bit events are BIT rows. -/
theorem bitEventsFrame : Obligations.BitEventsFrame := by
  intro s t i hi hexec
  have hc : instrClass s.cfg i = .bit0 ∨ instrClass s.cfg i = .bit1 :=
    hi.imp (congrArg (instrClass s.cfg)) (congrArg (instrClass s.cfg))
  rw [eq_row_of_exec hexec]
  exact ⟨tableRow_cfg _ _ s, tableRow_record _ _ s, tableRow_input _ _ s,
    bitRow_frame (exec_next_coherent hexec) hc _⟩

/-- Settles O26: GAP answers an initial state with its report added to the output. -/
theorem gapFrame : Obligations.GapFrame := by
  intro s t sp hexec
  cases eq_row_of_exec hexec
  exact ⟨rfl, rfl, rfl, rfl, fun _ => rfl, _, rfl⟩

/-- A transaction of a pair answers the row of its classification (40_classifier.md R63, R64). -/
theorem row_of_pair_exec {s t : State} {i : Instr} {c : Classification}
    (hi : (∃ p v, i = .pairS p v ∧ c = classify s.cfg p (some v)) ∨ (∃ p, i = .pairT p ∧ c = classify s.cfg p none))
    (hexec : exec i s = .next t) : ∃ p, t = tableRow c p s := by
  obtain ⟨p, v, rfl, rfl⟩ | ⟨p, rfl, rfl⟩ := hi
  · exact ⟨_, eq_row_of_exec hexec⟩
  · exact ⟨_, eq_row_of_exec hexec⟩

/-- Settles O27: the constants, the port, the inputs and the earlier output by the laws of every row; the items and the
cells by the frame of a BIT row, a report changing none of them; the fault record by where a row records it. -/
theorem pairTransactionsFrame : Obligations.PairTransactionsFrame := by
  intro s t i c hi hexec
  have h := exec_next_coherent hexec
  obtain ⟨p, rfl⟩ := row_of_pair_exec hi hexec
  refine ⟨tableRow_cfg c p s, tableRow_record c p s, tableRow_input c p s, ⟨_, (tableRow_trace c p s).symm⟩,
    ?_, fun hc => ?_, fun ⟨hc, hno⟩ => ?_, fun hno => ?_, fun ⟨hc, hno⟩ => ?_⟩
  · rintro (rfl | rfl)
    · exact ⟨⟨rfl, rfl, rfl, rfl, rfl⟩, rfl⟩
    · exact ⟨⟨rfl, rfl, rfl, rfl, rfl⟩, rfl⟩
  · obtain ⟨hcells, -, -⟩ := bitRow_frame h hc p
    exact hcells
  · obtain ⟨-, hstore, -⟩ := bitRow_frame h hc p
    exact hstore hno
  · obtain ⟨hfault, -⟩ | ⟨hc, h7, hfull, -⟩ := tableRow_fault c p s
    · exact hfault
    · rw [tableRoom_iff h, Bool.not_eq_true] at hfull
      exact absurd ⟨hc, h7, hfull⟩ hno
  · obtain ⟨-, -, hdrop⟩ := bitRow_frame h hc p
    exact (hdrop hno).1

/-! ### No row depends on `ovf` but in the truncation mark (10_state.md R14) -/

/-- With `ovf` and the truncation marks hidden, a row answers the same whatever `ovf` was. -/
theorem hideOvf_tableRow (c : Classification) (t : Pair) (o : Bool) (s : State) :
    hideOvf (tableRow c t { s with ovf := o }) = hideOvf (tableRow c t s) := by
  obtain rfl | rfl | ⟨v, rfl⟩ | rfl := class_cases c
  · rfl
  · rfl
  · rw [tableRow_bitClass, tableRow_bitClass]
    obtain hc | ⟨h7, hr⟩ | ⟨h7, hr⟩ := bitRow_cases s
    · rw [tableBit_of_shift hc, tableBit_of_shift (s := { s with ovf := o }) hc]
      rfl
    · rw [tableBit_of_room h7 hr, tableBit_of_room (s := { s with ovf := o }) h7 hr]
      rfl
    · rw [tableBit_of_full h7 hr, tableBit_of_full (s := { s with ovf := o }) h7 hr]
      rfl
  · by_cases hc : s.bitCount = 0#3 <;> simp [tableRow, tableGap, hideOvf, hideTrunc, message, hc]

/-- Settles O39: both states take the row of the same classification. -/
theorem ovfShowsOnlyAsTrunc : Obligations.OvfShowsOnlyAsTrunc := by
  intro s t1 t2 i h1 h2
  rw [eq_row_of_exec h1, eq_row_of_exec h2]
  exact (hideOvf_tableRow _ _ true s).trans (hideOvf_tableRow _ _ false s).symm

end Sys2Proof.Machine
end

section
/-! The step: what it runs, when it is refused, its output record, and what it does not read (42_message_fsm.md R95, R96,
30_encoding.md R49, R53, 60_exceptions.md R105). -/

namespace Sys2Proof.Machine

/-! ### Running the decoded instruction -/

/-- An input that presents a word or an event is decoded and run. -/
theorem performInput_of_presented {x : Input} (hx : ∀ g, x = .port g → g.rst = false ∧ g.iValid = true) (s : State) :
    performInput x s = runDecoded x s := by
  cases x with
  | event code t => rfl
  | port g =>
    obtain ⟨hr, hv⟩ := hx g rfl
    simp [performInput, hr, hv]

/-- Settles O28: the step is `present` of the instruction's answer, which adds the record to a next state only. -/
theorem stepRunsDecodedInstruction : Obligations.StepRunsDecodedInstruction := by
  intro s t ts i hin ht hi
  have hstep : step s = present (pairOfInput s.cfg.durW t) s.trace (exec i { s with input := ts }) :=
    calc step s = performInput t (setInput ts s) := step_cons hin
      _ = runDecoded t (setInput ts s) := performInput_of_presented ht _
      _ = _ := runDecoded_of_ok (s := setInput ts s) hi
  exact ⟨fun u hu => by rw [hstep, hu]; rfl, fun f hf => by rw [hstep, hf]; rfl, fun r hr => by rw [hstep, hr]; rfl⟩

/-- A decoded input in a coherent state: the row of its instruction's classification, and the record of the row's events
(30_encoding.md R49). -/
theorem runDecoded_of_coherent {x : Input} {s : State} {i : Instr} (h : Coherent s)
    (hi : decodeInput s.cfg.durW x = .ok i) : runDecoded x s =
      .next (setRecord (some (recordOf (pairOfInput s.cfg.durW x) (rowEvents (instrClass s.cfg i) (instrPair i) s)))
        (tableRow (instrClass s.cfg i) (instrPair i) s)) := by
  rw [runDecoded_of_ok hi, exec_of_coherent h, present, tableRow_trace, List.drop_left]

/-- A decoded input in a state that violates the invariants is refused (93 U13). -/
theorem runDecoded_of_not_coherent {x : Input} {s : State} {i : Instr} (h : ¬ Coherent s)
    (hi : decodeInput s.cfg.durW x = .ok i) : runDecoded x s = .refused .incoherentState := by
  rw [runDecoded_of_ok hi, exec_of_not_coherent h, present]

/-- Decoding and running an input ends in a next state or a refusal, by the decoder and the invariants. -/
theorem runDecoded_next_or_refused (x : Input) (s : State) :
    (∃ u, runDecoded x s = .next u) ∨ ∃ r, runDecoded x s = .refused r := by
  cases hi : decodeInput s.cfg.durW x with
  | error e => exact .inr ⟨_, runDecoded_of_error hi⟩
  | ok i =>
    by_cases h : Coherent s
    · exact .inl ⟨_, runDecoded_of_coherent h hi⟩
    · exact .inr ⟨_, runDecoded_of_not_coherent h hi⟩

/-! ### When a step has no next state -/

/-- Settles O34: every instruction is an event, and an event is guarded by the invariants. -/
theorem incoherentStatesRefused : Obligations.IncoherentStatesRefused := fun _ i h => exec_of_not_coherent h i

/-- No input is answered by a fault (60_exceptions.md R105). -/
theorem performInput_ne_fault (x : Input) (s : State) (f : Fault) : performInput x s ≠ .fault f := by
  obtain ⟨-, -, -, hx⟩ | ⟨-, -, -, -, hx⟩ | ⟨-, hx⟩ := performInput_shape x
  · rw [hx]
    nofun
  · rw [hx]
    nofun
  · rw [hx]
    obtain ⟨u, hu⟩ | ⟨r, hr⟩ := runDecoded_next_or_refused x s
    · rw [hu]
      nofun
    · rw [hr]
      nofun

/-- An input of the port in a coherent state, its word of the port's width, has a next state. -/
theorem performInput_port_next {s : State} {g : Port} (h : Coherent s) (hw : g.word < 2 ^ (2 * s.cfg.durW + 1)) :
    ∃ u, performInput (.port g) s = .next u := by
  obtain ⟨-, -, -, hx⟩ | ⟨-, -, -, -, hx⟩ | ⟨-, hx⟩ := performInput_shape (.port g)
  · exact ⟨_, hx s⟩
  · exact ⟨_, hx s⟩
  · have hi : decodeInput s.cfg.durW (.port g) = .ok (pairInstr (pairOfWord s.cfg.durW g.word)) := decodeWord_of_lt hw
    exact ⟨_, (hx s).trans (runDecoded_of_coherent h hi)⟩

/-- Settles O33: no input faults, and a word of the port decodes and is run in a coherent state. -/
theorem everyStepCompletes : Obligations.EveryStepCompletes := by
  refine ⟨fun s f => ?_, fun s h hport hevent => ?_⟩
  · cases hin : s.input with
    | nil =>
      rw [step, hin]
      nofun
    | cons x ts =>
      rw [step_cons hin]
      exact performInput_ne_fault x _ f
  · cases hin : s.input with
    | nil => exact ⟨idleStep s, by rw [step, hin]⟩
    | cons x ts =>
      cases x with
      | event code t => exact absurd hin (hevent code t ts)
      | port g =>
        rw [step_cons hin]
        exact performInput_port_next (s := setInput ts s) h (hport g ts hin)

/-- Settles O35: a reset and an empty step answer a next state; a word is refused by the decoder when it is too wide, by
the guard when the state violates the invariants, and never else. -/
theorem portStepRefusedExactlyWhen : Obligations.PortStepRefusedExactlyWhen := by
  intro s g ts hin
  rw [step_cons hin]
  obtain ⟨_, ⟨⟩, hr, hx⟩ | ⟨_, ⟨⟩, -, hv, hx⟩ | ⟨hpresented, hx⟩ := performInput_shape (.port g)
  · rw [hx]
    exact iff_of_false nofun (by simp [hr])
  · rw [hx]
    exact iff_of_false nofun (by simp [hv])
  · obtain ⟨hr, hv⟩ := hpresented g rfl
    simp only [hr, hv, true_and]
    constructor
    · rintro ⟨r, hrefused⟩
      by_contra hok
      rw [not_or, not_le, not_not] at hok
      obtain ⟨hw, h⟩ := hok
      obtain ⟨u, hu⟩ := performInput_port_next (s := setInput ts s) (g := g) h hw
      rw [hu] at hrefused
      cases hrefused
    · intro hbad
      rw [hx]
      by_cases hw : g.word < 2 ^ (2 * s.cfg.durW + 1)
      · have h : ¬ Coherent s := hbad.resolve_left (not_le.2 hw)
        exact ⟨_, runDecoded_of_not_coherent (x := .port g) (s := setInput ts s) h (decodeWord_of_lt hw)⟩
      · exact ⟨_, runDecoded_of_error (t := .port g) (s := setInput ts s) (decodeWord_of_le (not_lt.1 hw))⟩

/-! ### Reset, and no further input (70_reset_and_hazards.md R130, R134) -/

/-- Settles O31: the step is the reset step, whatever word is beside it. -/
theorem resetStepRestoresInitialState : Obligations.ResetStepRestoresInitialState := fun _ _ _ _ hin =>
  step_of_reset rfl hin

/-- Settles O30, by induction on the number of further steps: each idles, and an idle step leaves an idle state. -/
theorem endOfInputEmitsNothing : Obligations.EndOfInputEmitsNothing := by
  intro s hin n
  have hstep : step s = .next (idleStep s) := by rw [step, hin]
  rw [core_run_next hstep]
  induction n generalizing s with
  | zero => rfl
  | succ n ih =>
    have hidle : step (idleStep s) = .next (idleStep s) := by
      rw [step, show (idleStep s).input = [] from hin]
      rfl
    rw [core_run_next hidle]
    exact ih s hin hstep

/-! ### The output record (30_encoding.md R49) -/

/-- The record's code of a decoded bit is its classification's code (30_encoding.md R48). -/
theorem bitCode_eq : ∀ v : Bit, 2#3 + v.setWidth 3 = codeOfClass (bitClass v) := by decide

/-- The record of a BIT row: a byte exactly when the count was 7, dropped exactly when there was no room. -/
theorem recordOf_bitReport (v : Bit) (t : Pair) (s : State) : recordOf t (bitReport v s) =
    { blankRecord t with
      oCls := codeOfClass (bitClass v)
      oByteValid := decide (s.bitCount.toNat = 7)
      oByte := if s.bitCount.toNat = 7 then tableByte v s else 0
      oOvf := decide (s.bitCount.toNat = 7 ∧ ¬ TableRoom s) } := by
  rw [← bitCode_eq]
  obtain hc | ⟨h7, hr⟩ | ⟨h7, hr⟩ := bitRow_cases s
  · have h7 : s.bitCount.toNat ≠ 7 := by omega
    have hno : ¬ (s.bitCount.toNat = 7 ∧ ¬ TableRoom s) := fun hdrop => h7 hdrop.1
    rw [bitReport_of_shift hc, decide_eq_false hno, decide_eq_false h7, if_neg h7]
    rfl
  · have hno : ¬ (s.bitCount.toNat = 7 ∧ ¬ TableRoom s) := fun hdrop => hdrop.2 hr
    rw [bitReport_of_room h7 hr, decide_eq_false hno, decide_eq_true h7, if_pos h7]
    rfl
  · have hdrop : s.bitCount.toNat = 7 ∧ ¬ TableRoom s := ⟨h7, hr⟩
    rw [bitReport_of_full h7 hr, decide_eq_true hdrop, decide_eq_true h7, if_pos h7]
    rfl

/-- The record of a GAP row: the discarded count, which is 0 when nothing is reported discarded, and the message. -/
theorem recordOf_gapReport (sp : Option Nat) (t : Pair) (s : State) : recordOf t (gapReport sp s) =
    { blankRecord t with
      oCls := codeOfClass .gap
      oDisc := s.bitCount
      oMsgValid := true
      oMsgLen := (message s).length
      oMsgData := message s
      oMsgTrunc := s.ovf } := by
  by_cases hc : s.bitCount = 0#3 <;> simp [gapReport, recordOf, showEvent, blankRecord, hc]

/-- The record of a row's events carries the code of its classification. -/
theorem recordOf_rowEvents_oCls (c : Classification) (t p : Pair) (s : State) :
    (recordOf t (rowEvents c p s)).oCls = codeOfClass c := by
  obtain rfl | rfl | ⟨v, rfl⟩ | rfl := class_cases c
  · rfl
  · rfl
  · rw [rowEvents_bitClass, recordOf_bitReport]
  · rw [rowEvents, recordOf_gapReport]

/-- The events of a row do not depend on the inputs left. -/
theorem rowEvents_setInput (c : Classification) (t : Pair) (ts : List Input) (s : State) :
    rowEvents c t (setInput ts s) = rowEvents c t s := by
  cases c <;> rfl

/-- The number of a bit value is 1 exactly for BIT1. -/
theorem bit_toNat_eq : ∀ v : Bit, v.toNat = if bitClass v = .bit1 then 1 else 0 := by decide

/-- Settles O36: a step on a word presents the record of the events of its row, which is known row by row. -/
theorem outputRecordFields : Obligations.OutputRecordFields := by
  intro s t ts c h hin ht hc
  obtain ⟨w, rfl, hw⟩ := eq_wordInput_of_presentsWord ht
  have hstep := step_word h hin hw hc rfl
  rw [tableRow_trace, setInput_trace, List.drop_left, rowEvents_setInput] at hstep
  refine ⟨_, _, hstep, rfl, recordOf_rowEvents_oCls c _ _ _, ?_⟩
  obtain rfl | rfl | ⟨v, rfl⟩ | rfl := class_cases c
  · simp [rowEvents, recordOf, showEvent, blankRecord, pairOfInput, wordInput]
  · simp [rowEvents, recordOf, showEvent, blankRecord, pairOfInput, wordInput]
  · obtain ⟨hunknown, hheader, hgap⟩ := bitClass_ne v
    have hbit : bitClass v = .bit0 ∨ bitClass v = .bit1 := (isBit_iff_bitClass _).2 ⟨v, rfl⟩
    rw [rowEvents_bitClass, recordOf_bitReport]
    simp +contextual [blankRecord, pairOfInput, wordInput, tableRoom_iff h, tableByte_toNat h, hbit, hgap,
      ← bit_toNat_eq]
  · rw [rowEvents, recordOf_gapReport]
    simp [blankRecord, pairOfInput, wordInput, message]

/-- A record that an input presents carries the code of the input's classification. -/
theorem record_oCls_of_performInput {x : Input} {s u : State} {r : OutRecord} (h : performInput x s = .next u)
    (hr : u.record = some r) : ∃ c, inputClass s.cfg x = some c ∧ r.oCls = codeOfClass c := by
  obtain ⟨-, rfl | rfl⟩ | ⟨c, hc, -, rfl⟩ := performInput_next_row h
  · cases hr
  · cases hr
  · cases hr
    exact ⟨c, hc, recordOf_rowEvents_oCls c _ _ s⟩

/-- Settles O37: a record's code is that of the input's classification, which is read from the configuration and the
word alone. -/
theorem classificationIgnoresState : Obligations.ClassificationIgnoresState := by
  intro s1 s2 u1 u2 r1 r2 w ts1 ts2 hcfg hin1 hin2 hstep1 hstep2 hr1 hr2
  rw [step_cons hin1] at hstep1
  rw [step_cons hin2] at hstep2
  obtain ⟨c1, hc1, hcode1⟩ := record_oCls_of_performInput hstep1 hr1
  obtain ⟨c2, hc2, hcode2⟩ := record_oCls_of_performInput hstep2 hr2
  rw [setInput_cfg, hcfg] at hc1
  rw [hcode1, hcode2, Option.some.inj (hc1.symm.trans hc2)]

/-! ### No step reads the output (40_classifier.md R66) -/

/-- The events of a row depend neither on the output nor on the output port. -/
theorem rowEvents_withOutput (c : Classification) (t : Pair) (es : List Event) (r : Option OutRecord) (s : State) :
    rowEvents c t (withOutput es r s) = rowEvents c t s := by
  cases c <;> rfl

/-- An input performed with the earlier output replaced adds the same events to the replacement. -/
theorem performInput_withOutput {x : Input} {s u : State} (es : List Event) (r : Option OutRecord)
    (h : performInput x s = .next u) : ∃ new, u.trace = s.trace ++ new
      ∧ performInput x (withOutput es r s) = .next (withOutput (es ++ new) u.record u) := by
  obtain ⟨-, -, -, hx⟩ | ⟨-, -, -, -, hx⟩ | ⟨-, hx⟩ := performInput_shape x
  · rw [hx, Host.Outcome.next.injEq] at h
    subst h
    exact ⟨[], (List.append_nil _).symm, by rw [hx, List.append_nil]; rfl⟩
  · rw [hx, Host.Outcome.next.injEq] at h
    subst h
    exact ⟨[], (List.append_nil _).symm, by rw [hx, List.append_nil]; rfl⟩
  · rw [hx] at h ⊢
    obtain ⟨i, v, hi, hv, -⟩ := runDecoded_next h
    have hs := exec_next_coherent hv
    rw [runDecoded_of_coherent hs hi, Host.Outcome.next.injEq] at h
    subst h
    refine ⟨_, tableRow_trace _ _ s, ?_⟩
    rw [runDecoded_of_coherent (s := withOutput es r s) hs hi, tableRow_withOutput, rowEvents_withOutput]
    rfl

/-- Settles O38: an idle step and the next input alike. -/
theorem outputIsNeverReadBack : Obligations.OutputIsNeverReadBack := by
  intro s u es r hstep
  cases hin : s.input with
  | nil =>
    rw [step, hin, Host.Outcome.next.injEq] at hstep
    subst hstep
    refine ⟨[], (List.append_nil _).symm, ?_⟩
    rw [step, show (withOutput es r s).input = [] from hin, List.append_nil]
    rfl
  | cons x ts =>
    rw [step_cons hin] at hstep
    rw [step_cons (s := withOutput es r s) hin]
    exact performInput_withOutput es r hstep

/-! ### A run of inputs is a left fold (42_message_fsm.md R96) -/

/-- An answer with its next state changed by a function. -/
def mapNext (f : State → State) (a : Answer) : Answer :=
  match a with
  | .next s    => .next (f s)
  | .fault r   => .fault r
  | .refused r => .refused r

/-- Decoding and running an input reads none of the inputs left. -/
theorem runDecoded_setInput (x : Input) (ts : List Input) (s : State) :
    runDecoded x (setInput ts s) = mapNext (setInput ts) (runDecoded x s) := by
  cases hi : decodeInput s.cfg.durW x with
  | error e => rw [runDecoded_of_error hi, runDecoded_of_error (s := setInput ts s) hi, mapNext]
  | ok i =>
    by_cases h : Coherent s
    · rw [runDecoded_of_coherent h hi, runDecoded_of_coherent (s := setInput ts s) h hi, tableRow_setInput,
        rowEvents_setInput]
      rfl
    · rw [runDecoded_of_not_coherent h hi, runDecoded_of_not_coherent (s := setInput ts s) h hi, mapNext]

/-- An input is performed without reading the inputs left. -/
theorem performInput_setInput (x : Input) (ts : List Input) (s : State) :
    performInput x (setInput ts s) = mapNext (setInput ts) (performInput x s) := by
  obtain ⟨-, -, -, hx⟩ | ⟨-, -, -, -, hx⟩ | ⟨-, hx⟩ := performInput_shape x
  · rw [hx, hx]
    rfl
  · rw [hx, hx]
    rfl
  · rw [hx, hx, runDecoded_setInput]

/-- The machine run on its inputs, by induction on them: each step performs the first of them. -/
theorem core_run_eq_runInputs (ts : List Input) (s : State) :
    Host.Core.run core ts.length (setInput ts s) = runInputs ts (setInput [] s) := by
  induction ts generalizing s with
  | nil => rfl
  | cons x ts ih =>
    have hstep : step (setInput (x :: ts) s) = mapNext (setInput ts) (performInput x s) :=
      performInput_setInput x ts s
    rw [List.length_cons, runInputs_cons, performInput_setInput]
    cases hx : performInput x s with
    | next u =>
      rw [hx] at hstep
      rw [core_run_next hstep]
      exact ih u
    | fault f =>
      rw [hx] at hstep
      exact core_run_fault hstep
    | refused r =>
      rw [hx] at hstep
      exact core_run_refused hstep

/-- Settles O50: the fold over a concatenation by induction on its first part. -/
theorem runIsLeftFold : Obligations.RunIsLeftFold := by
  refine ⟨fun ts us s => ?_, core_run_eq_runInputs⟩
  induction ts generalizing s with
  | nil => rfl
  | cons x ts ih =>
    rw [List.cons_append, runInputs_cons, runInputs_cons]
    cases performInput x s with
    | next u => exact ih u
    | fault f => rfl
    | refused r => rfl

end Sys2Proof.Machine
end

section
/-! Runs of events: bits packed into bytes, noise removed, messages round trip, and messages counted
(41_accumulator.md R87, 42_message_fsm.md R96, R97). -/

namespace Sys2Proof.Machine

/-! ### The independent packing, one bit at a time (41_accumulator.md R87, 20_memory.md R32) -/

theorem bitsValue_concat (vs : List Bit) (v : Bit) : bitsValue (vs ++ [v]) = 2 * bitsValue vs + v.toNat := by
  simp [bitsValue]

/-- A byte-sized piece of bits that lies inside a list does not change when the list grows. -/
theorem drop_take_append {vs ws : List Bit} {i : Nat} (h : i + 8 ≤ vs.length) :
    ((vs ++ ws).drop i).take 8 = (vs.drop i).take 8 := by
  rw [List.drop_append_of_le_length (by omega), List.take_append_of_le_length (by rw [List.length_drop]; omega)]

/-- Bits that start at a whole byte's length are dangling after it. -/
theorem danglingBits_length (vs : List Bit) : (danglingBits vs).length = vs.length % 8 := by
  rw [danglingBits, List.length_drop]
  omega

/-- One more bit that completes no byte is one more dangling bit. -/
theorem danglingBits_concat_of_lt {vs : List Bit} (h : vs.length % 8 ≤ 6) (v : Bit) :
    danglingBits (vs ++ [v]) = danglingBits vs ++ [v] := by
  have hdiv : (vs ++ [v]).length / 8 = vs.length / 8 := by
    rw [List.length_append, List.length_singleton]
    omega
  rw [danglingBits, danglingBits, hdiv, List.drop_append_of_le_length (by omega)]

/-- The bit that completes a byte leaves no bit dangling. -/
theorem danglingBits_concat_of_eq {vs : List Bit} (h : vs.length % 8 = 7) (v : Bit) :
    danglingBits (vs ++ [v]) = [] := by
  rw [← List.length_eq_zero_iff, danglingBits_length, List.length_append, List.length_singleton]
  omega

/-- The whole bytes of a longer list, up to a number of bytes the shorter one has. -/
theorem map_byte_append {vs ws : List Bit} {n : Nat} (h : 8 * n ≤ vs.length) :
    (List.range n).map (fun j => BitVec.ofNat 8 (bitsValue (((vs ++ ws).drop (8 * j)).take 8)))
      = (List.range n).map (fun j => BitVec.ofNat 8 (bitsValue ((vs.drop (8 * j)).take 8))) := by
  refine List.map_congr_left fun j hj => ?_
  have hlt := List.mem_range.1 hj
  rw [drop_take_append (by omega)]

/-- One more bit that completes no byte adds no whole byte. -/
theorem wholeBytes_concat_of_lt {vs : List Bit} (h : vs.length % 8 ≤ 6) (v : Bit) :
    wholeBytes (vs ++ [v]) = wholeBytes vs := by
  have hdiv : (vs ++ [v]).length / 8 = vs.length / 8 := by
    rw [List.length_append, List.length_singleton]
    omega
  rw [wholeBytes, wholeBytes, hdiv, map_byte_append (by omega)]

/-- The bit that completes a byte adds the byte of the dangling bits and itself. -/
theorem wholeBytes_concat_of_eq {vs : List Bit} (h : vs.length % 8 = 7) (v : Bit) :
    wholeBytes (vs ++ [v]) = wholeBytes vs ++ [BitVec.ofNat 8 (2 * bitsValue (danglingBits vs) + v.toNat)] := by
  have hdiv : (vs ++ [v]).length / 8 = vs.length / 8 + 1 := by
    rw [List.length_append, List.length_singleton]
    omega
  have hlast : ((vs ++ [v]).drop (8 * (vs.length / 8))).take 8 = danglingBits vs ++ [v] := by
    rw [List.drop_append_of_le_length (by omega), List.take_of_length_le, danglingBits]
    rw [List.length_append, List.length_drop, List.length_singleton]
    omega
  rw [wholeBytes, wholeBytes, hdiv, List.range_succ, List.map_append, map_byte_append (by omega), List.map_singleton,
    hlast, bitsValue_concat]

/-- The first eight bits are the first byte. -/
theorem wholeBytes_append_of_eight {us : List Bit} (h : us.length = 8) (vs : List Bit) :
    wholeBytes (us ++ vs) = BitVec.ofNat 8 (bitsValue us) :: wholeBytes vs := by
  have hdiv : (us ++ vs).length / 8 = vs.length / 8 + 1 := by
    rw [List.length_append, h]
    omega
  rw [wholeBytes, hdiv, List.range_succ_eq_map, List.map_cons, List.map_map, wholeBytes]
  congr 1
  · rw [Nat.mul_zero, List.drop_zero, List.take_left' h]
  · refine List.map_congr_left fun j _ => ?_
    have hdrop : (us ++ vs).drop (8 * (j + 1)) = vs.drop (8 * j) := by
      rw [show 8 * (j + 1) = us.length + 8 * j by omega, List.drop_length_add_append]
    exact congrArg (fun ws : List Bit => BitVec.ofNat 8 (bitsValue (ws.take 8))) hdrop

/-- The whole bytes of the bits of a list of bytes are those bytes. -/
theorem wholeBytes_flatMap_byteBits (bytes : List Byte) : wholeBytes (bytes.flatMap byteBits) = bytes := by
  induction bytes with
  | nil => rfl
  | cons b bytes ih =>
    rw [List.flatMap_cons, wholeBytes_append_of_eight (byteBits_length b), ih, bitsValue_byteBits, BitVec.ofNat_toNat,
      BitVec.setWidth_eq]

theorem length_flatMap_byteBits (bytes : List Byte) : (bytes.flatMap byteBits).length = 8 * bytes.length := by
  simp [List.length_flatMap, Nat.mul_comm]

/-! ### Messages in an output (42_message_fsm.md R96) -/

@[simp] theorem messagesOf_append (es fs : List Event) : messagesOf (es ++ fs) = messagesOf es ++ messagesOf fs :=
  List.filterMap_append

/-- A BIT row emits no message. -/
theorem messagesOf_bitReport (v : Bit) (s : State) : messagesOf (bitReport v s) = [] := by
  unfold bitReport
  split_ifs <;> rfl

/-- A GAP row emits the message, with `ovf` as its truncation mark. -/
theorem messagesOf_gapReport (sp : Option Nat) (s : State) : messagesOf (gapReport sp s) = [(message s, s.ovf)] := by
  unfold gapReport
  split_ifs <;> rfl

/-! ### Bit events (41_accumulator.md R87) -/

theorem bitEvents_append (vs ws : List Bit) : bitEvents (vs ++ ws) = bitEvents vs ++ bitEvents ws := List.map_append

/-- An event in a coherent state, run after events that answered it. -/
theorem runEvents_concat {es : List (Classification × Pair)} {s u : State} (h : runEvents es s = .next u)
    (hu : Coherent u) (c : Classification) (t : Pair) : runEvents (es ++ [(c, t)]) s = .next (tableRow c t u) := by
  rw [runEvents_append es _ s u h, runEvents_cons, accStep_of_coherent hu]
  rfl

/-- `t` is what bits `vs` make of a state `s` at a byte boundary: the invariants hold, the constants, `ovf` and the
messages emitted are those of `s`, the whole bytes are appended and the others dangle. -/
structure Packed (vs : List Bit) (s t : State) : Prop where
  coherent  : Coherent t
  cfg       : t.cfg = s.cfg
  message   : message t = message s ++ wholeBytes vs
  msgLen    : t.msgLen = s.msgLen + vs.length / 8
  bitCount  : t.bitCount.toNat = vs.length % 8
  bitBuffer : t.bitBuffer.toNat = bitsValue (danglingBits vs)
  ovf       : t.ovf = s.ovf
  messages  : messagesOf t.trace = messagesOf s.trace

/-- No bits make nothing of a coherent state at a byte boundary, whose buffer is empty (10_state.md R23). -/
theorem packed_nil {s : State} (h : Coherent s) (hc : s.bitCount = 0) : Packed [] s s where
  coherent := h
  cfg := rfl
  message := (List.append_nil _).symm
  msgLen := rfl
  bitCount := by rw [hc]; rfl
  bitBuffer := by
    obtain ⟨hbuf, -⟩ := h
    rw [hc] at hbuf
    exact Nat.lt_one_iff.1 hbuf
  ovf := rfl
  messages := rfl

/-- A bit that completes no byte shifts into the dangling bits. -/
theorem Packed.shift {vs : List Bit} {s t : State} (h : Packed vs s t) (hlt : vs.length % 8 ≤ 6) (v : Bit) :
    Packed (vs ++ [v]) s (tableBit v t) := by
  have hc : t.bitCount.toNat ≤ 6 := h.bitCount ▸ hlt
  have hcoherent := coherent_tableBit h.coherent v
  have hcount := tableBit_bitCount_toNat v t
  rw [tableBit_of_shift hc] at hcoherent hcount ⊢
  have hlen : (vs ++ [v]).length = vs.length + 1 := List.length_append
  exact {
    coherent := hcoherent
    cfg := h.cfg
    message := by rw [wholeBytes_concat_of_lt hlt]; exact h.message
    msgLen := h.msgLen.trans (by omega)
    bitCount := hcount.trans (by rw [h.bitCount]; omega)
    bitBuffer := by
      rw [danglingBits_concat_of_lt hlt, bitsValue_concat, ← h.bitBuffer]
      exact tableByte_toNat h.coherent v
    ovf := h.ovf
    messages := by rw [messagesOf_append, h.messages]; exact List.append_nil _ }

/-- A bit that completes a byte stores the dangling bits and itself, where there is room. -/
theorem Packed.store {vs : List Bit} {s t : State} (h : Packed vs s t) (heq : vs.length % 8 = 7) (hr : TableRoom t)
    (v : Bit) : Packed (vs ++ [v]) s (tableBit v t) := by
  have h7 : t.bitCount.toNat = 7 := h.bitCount.trans heq
  have hcoherent := coherent_tableBit h.coherent v
  have hmessage := message_tableBit_of_room h7 hr v
  rw [tableBit_of_room h7 hr] at hcoherent hmessage ⊢
  have hlen : (vs ++ [v]).length = vs.length + 1 := List.length_append
  exact {
    coherent := hcoherent
    cfg := h.cfg
    message := by
      rw [hmessage, h.message, wholeBytes_concat_of_eq heq, List.append_assoc, ← h.bitBuffer]
      rfl
    msgLen := (congrArg (· + 1) h.msgLen).trans (by omega)
    bitCount := by
      change 0 = _
      omega
    bitBuffer := by rw [danglingBits_concat_of_eq heq]; rfl
    ovf := h.ovf
    messages := by rw [messagesOf_append, h.messages]; exact List.append_nil _ }

/-- Bit events from a byte boundary with room for their whole bytes, by induction from the last bit: each one shifts or
stores. -/
theorem runEvents_bitEvents (vs : List Bit) {s : State} (h : Coherent s) (hc : s.bitCount = 0)
    (hroom : ∀ d ∈ s.cfg.msgDepth, s.msgLen + vs.length / 8 ≤ d) :
    ∃ t, runEvents (bitEvents vs) s = .next t ∧ Packed vs s t := by
  induction vs using List.reverseRecOn with
  | nil => exact ⟨s, rfl, packed_nil h hc⟩
  | append_singleton vs v ih =>
    have hlen : (vs ++ [v]).length = vs.length + 1 := List.length_append
    obtain ⟨t, hrun, ht⟩ := ih fun d hd => le_trans (by omega) (hroom d hd)
    have hstep := runEvents_concat hrun ht.coherent (bitClass v) { pulse := 0, space := none }
    rw [tableRow_bitClass] at hstep
    refine ⟨tableBit v t, by rw [bitEvents_append]; exact hstep, ?_⟩
    obtain hlt | heq : vs.length % 8 ≤ 6 ∨ vs.length % 8 = 7 := by omega
    · exact ht.shift hlt v
    · refine ht.store heq (fun d hd => ?_) v
      have hle := hroom d (ht.cfg ▸ hd)
      rw [message_length ht.coherent, ht.msgLen]
      omega

/-- Settles O51: the packing of the run is the independent one. -/
theorem bitEventsPackIntoBytes : Obligations.BitEventsPackIntoBytes := by
  intro vs s h hc hroom
  obtain ⟨t, hrun, ht⟩ := runEvents_bitEvents vs h hc hroom
  exact ⟨t, hrun, ht.message, ht.msgLen, ht.bitCount, ht.bitBuffer, ht.ovf⟩

/-! ### Messages (42_message_fsm.md R97) -/

/-- A Header or nothing before the bits changes nothing but the output, and emits no message. -/
theorem runEvents_lead {lead : List (Classification × Pair)} (hlead : lead = [] ∨ ∃ h, lead = [(.header, h)])
    {s : State} (hs : Coherent s) : ∃ es, runEvents lead s = .next { s with trace := s.trace ++ es } ∧ messagesOf es = [] := by
  obtain rfl | ⟨t, rfl⟩ := hlead
  · refine ⟨[], ?_, rfl⟩
    rw [List.append_nil]
    rfl
  · exact ⟨[.headerSeen], runEvents_concat (es := []) rfl hs .header t, rfl⟩

/-- Settles O53: the bits of the bytes pack into the bytes with none left over, and the Gap emits them. -/
theorem messageRoundTrip : Obligations.MessageRoundTrip := by
  intro bytes s t lead h hc hlen hovf hroom hlead
  obtain ⟨es, hrunLead, hes⟩ := runEvents_lead hlead h
  have hlength := length_flatMap_byteBits bytes
  obtain ⟨u, hrunBits, hu⟩ := runEvents_bitEvents (bytes.flatMap byteBits) (s := { s with trace := s.trace ++ es }) h hc
    fun d hd => by
      have hle := hroom d hd
      change s.msgLen + _ ≤ d
      omega
  have hrun : runEvents (lead ++ bitEvents (bytes.flatMap byteBits)) s = .next u :=
    (runEvents_append lead _ s _ hrunLead).trans hrunBits
  have hempty : message s = [] := List.length_eq_zero_iff.1 ((message_length h).trans hlen)
  have hmessage : message u = bytes := by
    rw [hu.message, wholeBytes_flatMap_byteBits]
    exact congrArg (· ++ bytes) hempty
  refine ⟨_, runEvents_concat hrun hu.coherent .gap t, ?_, rfl⟩
  rw [tableRow_trace, messagesOf_append, hu.messages, messagesOf_append, hes, List.append_nil, rowEvents,
    messagesOf_gapReport, hmessage, hu.ovf]
  exact congrArg (fun o => messagesOf s.trace ++ [(bytes, o)]) hovf

/-- A row emits one message at a Gap and none else. -/
theorem length_messagesOf_rowEvents (c : Classification) (t : Pair) (s : State) :
    (messagesOf (rowEvents c t s)).length = if c = .gap then 1 else 0 := by
  obtain rfl | rfl | ⟨v, rfl⟩ | rfl := class_cases c
  · rfl
  · rfl
  · obtain ⟨-, -, hgap⟩ := bitClass_ne v
    rw [rowEvents_bitClass, messagesOf_bitReport, if_neg hgap]
    rfl
  · rw [rowEvents, messagesOf_gapReport]
    rfl

/-- An input that answers a next state keeps the constants and adds a message exactly when it is classified Gap. -/
theorem performInput_messages {x : Input} {s u : State} (h : performInput x s = .next u) : u.cfg = s.cfg
    ∧ (messagesOf u.trace).length
      = (messagesOf s.trace).length + if (inputClass s.cfg x == some .gap) = true then 1 else 0 := by
  obtain ⟨hc, rfl | rfl⟩ | ⟨c, hc, -, rfl⟩ := performInput_next_row h
  · exact ⟨rfl, by rw [hc]; rfl⟩
  · exact ⟨rfl, by rw [hc]; rfl⟩
  · refine ⟨tableRow_cfg c _ s, ?_⟩
    rw [setRecord_trace, tableRow_trace, messagesOf_append, List.length_append, length_messagesOf_rowEvents, hc]
    simp

/-- Settles O55, by induction on the inputs. -/
theorem messagesCountGaps : Obligations.MessagesCountGaps := by
  intro ts s t h
  induction ts generalizing s with
  | nil =>
    cases h
    rfl
  | cons x ts ih =>
    rw [runInputs_cons] at h
    cases hx : performInput x s with
    | next u =>
      rw [hx] at h
      obtain ⟨hcfg, hcount⟩ := performInput_messages hx
      rw [ih u h, hcount, hcfg, List.countP_cons]
      omega
    | fault f =>
      rw [hx] at h
      cases h
    | refused r =>
      rw [hx] at h
      cases h

/-! ### Header and Unknown events left out (41_accumulator.md R87, 20_memory.md R35) -/

/-- The events without the Header and Unknown ones, run from a state that differs in its output alone, answer a state
that differs in its output alone: a report changes nothing else, and no row reads the output. -/
theorem runEvents_filter_reports {es : List (Classification × Pair)} {s t : State} (h : runEvents es s = .next t)
    (out : List Event) (r : Option OutRecord) :
    ∃ out', runEvents (es.filter (fun e => e.1 != .header && e.1 != .unknown)) (withOutput out r s)
      = .next (withOutput out' r t) := by
  induction es generalizing s out with
  | nil =>
    cases h
    exact ⟨out, rfl⟩
  | cons e es ih =>
    obtain ⟨c, p⟩ := e
    rw [runEvents_cons] at h
    cases hc : accStep c p s with
    | fault f =>
      rw [hc] at h
      cases h
    | refused x =>
      rw [hc] at h
      cases h
    | next u =>
      rw [hc] at h
      obtain ⟨hs, rfl⟩ := accStep_next_row hc
      by_cases hreport : c = .header ∨ c = .unknown
      · obtain rfl | rfl := hreport
        · exact ih h out
        · exact ih h out
      · have hkeep : (c != .header && c != .unknown) = true := by simpa [not_or] using hreport
        obtain ⟨out', hrun⟩ := ih h (out ++ rowEvents c p s)
        refine ⟨out', ?_⟩
        simp only [List.filter_cons, hkeep, if_true]
        rw [runEvents_cons, accStep_of_coherent (s := withOutput out r s) hs, tableRow_withOutput]
        exact hrun

/-- Settles O52: the two runs answer states that differ in their output alone. -/
theorem headersAndNoiseChangeNothing : Obligations.HeadersAndNoiseChangeNothing := by
  intro es s t u ht hu
  obtain ⟨out, hrun⟩ := runEvents_filter_reports ht s.trace s.record
  obtain rfl : u = withOutput out s.record t := by
    rw [← Host.Outcome.next.injEq (φ := Fault) (ρ := Refusal), ← hrun]
    exact hu.symm
  exact ⟨⟨rfl, rfl, rfl, rfl, rfl⟩, rfl⟩

end Sys2Proof.Machine
end

section
/-! The feeder and the rendering, outside the core (60_exceptions.md R110, R120 to R125, 42_message_fsm.md R98). -/

namespace Sys2Proof.Machine

/-! ### One step and a run of the feeder -/

/-- A clamped width fits the port (30_encoding.md R47). -/
theorem durationFits_clampWidth (durW : Nat) (v : Int) : durationFits durW (clampWidth durW v) = true := by
  have hpos : 0 < 2 ^ durW := Nat.two_pow_pos durW
  rw [durationFits, decide_eq_true_eq, clampWidth]
  omega

/-- A delivered transaction decodes to the transaction of the clamped pair. -/
theorem decodeInput_deliverPair (durW : Nat) (p : Int) (s : Option Int) : decodeInput durW (deliverPair durW p s) =
    .ok (pairInstr { pulse := clampWidth durW p, space := s.map (clampWidth durW) }) := by
  refine decodeWord_wordOfPair (durationFits_clampWidth durW p) ?_
  cases s with
  | none => rfl
  | some v => exact durationFits_clampWidth durW v

/-- A feeder run whose first input answers a next feeder delivers what that step delivers, then the rest. -/
theorem feed_cons_next {durW : Nat} {i : FeederInput} {is : List FeederInput} {f g h : Feeder} {d e : List Input}
    (hstep : feederStep durW i f = .next g d) (hrest : feed durW is g = .next h e) :
    feed durW (i :: is) f = .next h (d ++ e) := by
  simp only [feed, hstep, hrest]

/-- Settles O57, by induction on the pairs: each pulse line is kept pending, each space line delivers. -/
theorem feederDeliversPairsInOrder : Obligations.FeederDeliversPairsInOrder := by
  refine ⟨fun durW pairs => ?_, fun durW p m => decodeInput_deliverPair durW p (some m)⟩
  induction pairs with
  | nil => rfl
  | cons x pairs ih =>
    have hpulse : feederStep durW (.pulseLine x.1) feederStart
      = .next { pending := some x.1, running := true } [] := rfl
    have hspace : feederStep durW (.spaceLine x.2) { pending := some x.1, running := true }
      = .next feederStart [deliverPair durW x.1 (some x.2)] := rfl
    exact feed_cons_next hpulse (feed_cons_next hspace ih)

/-- A timeout delivers the pending pulse and discards it (60_exceptions.md R122). -/
theorem feederStep_timeout_pending {durW : Nat} {f : Feeder} {p : Int} (hrun : f.running = true)
    (hp : f.pending = some p) :
    feederStep durW .timeout f = .next { f with pending := none } [deliverPair durW p none] := by
  simp only [feederStep, hrun, hp, if_true]

/-- A timeout with nothing pending delivers nothing (60_exceptions.md R123), and so does one after the end. -/
theorem feederStep_timeout_none {f : Feeder} (hp : f.pending = none) (durW : Nat) :
    feederStep durW .timeout f = .next f [] := by
  simp only [feederStep, hp, ite_self]

/-- Settles O58: the first timeout delivers, the second finds nothing pending. -/
theorem feederTimeout : Obligations.FeederTimeout := by
  refine ⟨fun durW f p hrun hp => ⟨deliverPair durW p none, ?_, decodeInput_deliverPair durW p none⟩,
    fun durW f hp => feederStep_timeout_none hp durW⟩
  exact feed_cons_next (feederStep_timeout_pending hrun hp) (feed_cons_next (feederStep_timeout_none rfl durW) rfl)

/-- After its loop has ended a feeder delivers nothing, whatever reaches it (60_exceptions.md R124). -/
theorem feed_of_stopped {f : Feeder} (h : f.running = false) (durW : Nat) (is : List FeederInput) :
    feed durW is f = .next f [] := by
  induction is with
  | nil => rfl
  | cons i is ih =>
    have hstep : feederStep durW i f = .next f [] := by simp only [feederStep, h, Bool.false_eq_true, if_false]
    exact feed_cons_next hstep ih

/-- An end of stream or a read error delivers nothing and leaves the loop ended. -/
theorem feederStep_end {e : FeederInput} (he : e = .endOfStream ∨ e = .readError) (durW : Nat) (f : Feeder) :
    feederStep durW e f = .next { f with running := false } [] := by
  obtain ⟨pending, _ | _⟩ := f
  · obtain rfl | rfl := he <;> rfl
  · obtain rfl | rfl := he <;> cases pending <;> rfl

/-- A malformed line changes nothing (60_exceptions.md R110). -/
theorem feederStep_malformedLine (durW : Nat) (f : Feeder) : feederStep durW .malformedLine f = .next f [] := by
  simp only [feederStep, ite_self]

/-- Settles O59: one step each; after an end the loop has stopped. -/
theorem feederSkipsEndsAndRefuses : Obligations.FeederSkipsEndsAndRefuses := by
  refine ⟨feederStep_malformedLine, fun durW f e is he => ⟨{ f with running := false }, ?_⟩,
    fun durW f n hrun => ⟨fun hp => ?_, fun hp => ?_⟩⟩
  · exact feed_cons_next (feederStep_end he durW f) (feed_of_stopped rfl durW is)
  · obtain ⟨p, hp⟩ := Option.isSome_iff_exists.1 hp
    simp only [feederStep, hrun, hp, if_true]
  · simp only [feederStep, hrun, hp, if_true]

/-! ### Rendering (42_message_fsm.md R98) -/

/-- The digit of a number below 16 is its entry of the table of digits. -/
theorem hexDigit_eq_entry : ∀ n < 16, some (hexDigit n) = "0123456789abcdef".toList[n]? := by decide

/-- A number below 16 is known by its digit: the digits are distinct. -/
theorem hexDigit_inj : ∀ m < 16, ∀ n < 16, hexDigit m = hexDigit n → m = n := by decide

/-- The more significant digit of a byte is that of a number below 16. -/
theorem byte_div_lt (b : Byte) : b.toNat / 16 < 16 := by
  have hb := b.isLt
  omega

/-- The less significant digit of a byte is that of a number below 16. -/
theorem byte_mod_lt (b : Byte) : b.toNat % 16 < 16 := Nat.mod_lt _ (by decide)

/-- A byte renders as the entries of its two digits. -/
theorem renderByte_eq_entries (b : Byte) : (renderByte b).map some =
    ["0123456789abcdef".toList[b.toNat / 16]?, "0123456789abcdef".toList[b.toNat % 16]?] := by
  rw [← hexDigit_eq_entry _ (byte_div_lt b), ← hexDigit_eq_entry _ (byte_mod_lt b)]
  rfl

/-- Every character of a rendered byte is an entry of the table of digits. -/
theorem mem_digits_of_mem_renderByte {b : Byte} {c : Char} (h : c ∈ renderByte b) :
    c ∈ "0123456789abcdef".toList := by
  have hc : some c ∈ (renderByte b).map some := List.mem_map_of_mem h
  rw [renderByte_eq_entries, List.mem_pair] at hc
  obtain hc | hc := hc
  · exact List.mem_of_getElem? hc.symm
  · exact List.mem_of_getElem? hc.symm

/-- A byte is known by its two digits. -/
theorem renderByte_inj {a b : Byte} (h : renderByte a = renderByte b) : a = b := by
  simp only [renderByte, List.cons.injEq, and_true] at h
  obtain ⟨hhigh, hlow⟩ := h
  have hdiv := hexDigit_inj _ (byte_div_lt a) _ (byte_div_lt b) hhigh
  have hmod := hexDigit_inj _ (byte_mod_lt a) _ (byte_mod_lt b) hlow
  apply BitVec.eq_of_toNat_eq
  omega

theorem renderMessage_cons (b : Byte) (bytes : List Byte) :
    renderMessage (b :: bytes) = renderByte b ++ renderMessage bytes := List.flatMap_cons

theorem renderMessage_length (bytes : List Byte) : (renderMessage bytes).length = 2 * bytes.length := by
  induction bytes with
  | nil => rfl
  | cons b bytes ih =>
    rw [renderMessage_cons, List.length_append, ih, List.length_cons]
    change 2 + _ = _
    omega

/-- A message is known by its rendering, two digits at a time. -/
theorem renderMessage_inj {xs ys : List Byte} (h : renderMessage xs = renderMessage ys) : xs = ys := by
  induction xs generalizing ys with
  | nil =>
    cases ys with
    | nil => rfl
    | cons y ys => cases h
  | cons x xs ih =>
    cases ys with
    | nil => cases h
    | cons y ys =>
      rw [renderMessage_cons, renderMessage_cons] at h
      obtain ⟨hbyte, hrest⟩ := List.append_inj h rfl
      rw [renderByte_inj hbyte, ih hrest]

/-- Settles O60: digits by the table, concatenation by that of lists, the rest byte by byte. -/
theorem renderingIsTwoHexDigitsPerByte : Obligations.RenderingIsTwoHexDigitsPerByte := by
  refine ⟨fun b => ⟨List.append_nil _, renderByte_eq_entries b⟩, fun bytes => ⟨renderMessage_length bytes, ?_⟩,
    fun xs ys => List.flatMap_append, fun xs ys => renderMessage_inj⟩
  intro c hc
  obtain ⟨b, -, hb⟩ := List.mem_flatMap.1 hc
  exact mem_digits_of_mem_renderByte hb

end Sys2Proof.Machine
end
